-- ==== Sys2Proof/Word.lean ====
section
/-! DEFINITION. The widths of the block's data: every datum is an unsigned integer of 8, 16 or 24 bits
(10_state.md R30, 00_scope.md R6). -/

namespace Sys2Proof

/-- `u8`: a serial byte, a parameter, a register, a frame-buffer byte (00_scope.md R6). -/
abbrev Byte := BitVec 8

/-- `u16`: the phase, the speed step, the progress register (00_scope.md R6). -/
abbrev Word16 := BitVec 16

/-- `u24`: the receive window (10_state.md R22). -/
abbrev Window := BitVec 24

end Sys2Proof
end

