-- ==== Sys2Proof/Config.lean ====
section
/-! DEFINITION. The constants and parameters of 00_scope.md R5, and the free values of
93_implementation_defined.md part 1. -/

namespace Sys2Proof.Config

/-- `SYNC`, the sync marker byte (00_scope.md R5). -/
def sync : Byte := 0xFF#8

/-- `RAINBOW_STEP`, the per-pixel phase step in Rainbow (00_scope.md R5). -/
def rainbowStep : Word16 := 0x0400#16

/-- `MPULSE_STEP`, the per-pixel phase step in MovingPulse (00_scope.md R5). -/
def movingPulseStep : Word16 := 0x0800#16

/-- `RAINBOW_DIV`, the divisor of the Rainbow phase (00_scope.md R5). -/
def rainbowDiv : Nat := 42

/-- `RAINBOW_MAX`, the clamp of the divided Rainbow phase (00_scope.md R5). -/
def rainbowMax : Nat := 0x5FF

/-- `T0H`, `T0L`, `T1H`, `T1L`: high and low time of a 0 bit and of a 1 bit, in units (00_scope.md R5). -/
def t0h : Nat := 1
def t0l : Nat := 2
def t1h : Nat := 2
def t1l : Nat := 1

/-- The parameters of 00_scope.md R5 that are arguments of the model. The spec makes them parameters of the
step relation (10_state.md R10); the model carries them in State, where no step changes them
(DESIGN CHOICE, log 2). `T_UNIT` and `TICK_PERIOD` are timing only and no rule depends on them (70_reset_and_hazards.md R185). -/
structure Params where
  /-- `CAPACITY`, the number of pixels of the frame buffer. -/
  capacity : Nat
  /-- `ENABLED_RESET`, 0 or 1. -/
  enabledReset : Bool
  /-- `DIRECTION_RESET`, 0 or 1. -/
  directionReset : Bool
  /-- `SPEED_RESET`. -/
  speedReset : Word16
  /-- `PROGRESS_RESET`. -/
  progressReset : Word16
  /-- `ECHO_ENABLE`. -/
  echoEnable : Bool
  /-- `RX_BACKPRESSURE`. -/
  rxBackpressure : Bool
  /-- `T_LATCH_UNITS`. -/
  tLatchUnits : Nat
  deriving DecidableEq, Repr

/-- The ranges 00_scope.md R5 gives the parameters: `1 <= CAPACITY <= 255` and `T_LATCH_UNITS >= 1`. -/
abbrev Params.wf (p : Params) : Prop :=
  1 ≤ p.capacity ∧ p.capacity ≤ 255 ∧ 1 ≤ p.tLatchUnits

/-- The parameters of `State.reset`. `capacity` and `rxBackpressure` are the spec's own decisions (D3, D16).
The other values are those of the example reset state of 95_test_vectors.md section 0, and `tLatchUnits` the example of
its vector SER-1: DESIGN CHOICE, log 3 and log 4, unsafe for a claim that starts at `State.reset`. -/
def exampleParams : Params where
  capacity := 80
  enabledReset := true
  directionReset := false
  speedReset := 0x0000#16
  progressReset := 0x0000#16
  echoEnable := true
  rxBackpressure := true
  tLatchUnits := 4

/-- The free byte with a given index: a byte the generator writes in a cycle whose result the spec leaves to "any
value" (93_implementation_defined.md U2 to U5; log 9, log 10). -/
opaque freeByte : Nat → Byte

/-- The free bit with a given index: the choice of frame at a tick with `enabled >= 2` (93_implementation_defined.md
U1; log 8), and whether a pixel is left unwritten in a cycle with `mode >= 5` (U3; log 10). -/
opaque freeBit : Nat → Bool

end Sys2Proof.Config
end

