-- ==== Sys2Proof/Syntax.lean ====
section
/-! DEFINITION. The eleven serial commands, one constructor per row of spec/opcode_table.json (30_encoding.md R65). -/

namespace Sys2Proof

/-- A command (30_encoding.md R60): its opcode is the constructor, and its one operand `par` is an unsigned 8-bit
immediate, used as is (R64). The mnemonics are those of R65. -/
inductive Instr where
  /-- ENABLE, opcode 0x01 (40_commands.md R81). -/
  | enable (par : Byte)
  /-- BRIGHT, opcode 0x02 (40_commands.md R82). -/
  | bright (par : Byte)
  /-- MODE, opcode 0x03 (40_commands.md R83). -/
  | mode (par : Byte)
  /-- COLOR, opcode 0x04 (40_commands.md R84). -/
  | color (par : Byte)
  /-- DIR, opcode 0x05 (40_commands.md R85). -/
  | dir (par : Byte)
  /-- COUNT, opcode 0x06 (40_commands.md R86). -/
  | count (par : Byte)
  /-- SPDH, opcode 0x07 (40_commands.md R87). -/
  | spdh (par : Byte)
  /-- SPDL, opcode 0x08 (40_commands.md R88). -/
  | spdl (par : Byte)
  /-- RESET, opcode 0x09 (40_commands.md R89); the parameter byte is sent and ignored. -/
  | reset (par : Byte)
  /-- REGH, opcode 0x0A (40_commands.md R90). -/
  | regh (par : Byte)
  /-- REGL, opcode 0x0B (40_commands.md R91). -/
  | regl (par : Byte)
  deriving DecidableEq, Repr

end Sys2Proof
end

