-- ==== Sys2Proof/Decode.lean ====
section
/-! DEFINITION. The Command Protocol Decoder's view of a window (30_encoding.md R60 to R66), total on any bytes, and the
encoder and assembler (R65, R70) after it. -/

namespace Sys2Proof

/-! ## Fields of the window (30_encoding.md R60, 10_state.md R22) -/

/-- `w[23:16]`, the oldest byte: the opcode position. -/
def Window.oldest (w : Window) : Byte := w.extractLsb' 16 8

/-- `w[15:8]`, the middle byte: the parameter position. -/
def Window.middle (w : Window) : Byte := w.extractLsb' 8 8

/-- `w[7:0]`, the newest byte: the sync position. -/
def Window.newest (w : Window) : Byte := w.extractLsb' 0 8

/-- The window `{a, b, c}`, oldest byte first (30_encoding.md R68). -/
def Window.ofBytes (a b c : Byte) : Window := a ++ b ++ c

/-- One byte shifted in: `((w << 8) | b)[23:0]` (30_encoding.md R61). -/
def Window.shiftIn (w : Window) (b : Byte) : Window := (w <<< 8) ||| b.setWidth 24

/-- The recognition predicate of 30_encoding.md R62: (a) the value is above 0xFFFF, and (b) the least significant byte
is the sync marker. Nothing else is checked. -/
def recognised (w : Window) : Bool :=
  BitVec.ult 0x00FFFF#24 w && w.newest == Config.sync

/-! ## Decoding -/

/-- Why a window, or a list of bytes, is no command of the table (30_encoding.md R66). -/
inductive Reject where
  /-- Fewer than three bytes: the command is not complete (R60). -/
  | tooShort
  /-- The newest byte is not 0xFF: "silently discarded" by rolling out of the window (R66 b). -/
  | notSync
  /-- The opcode byte is 0: condition (a) of R62 fails (R66 a). -/
  | opcodeZero
  /-- Recognised, with an opcode 0x0C to 0xFF: a decode event, and no row of the table (R66 c). -/
  | reservedOpcode (op par : Byte)
  deriving DecidableEq, Repr

/-- The opcode map of 30_encoding.md R65. -/
def decodeOpcode (op par : Byte) : Option Instr :=
  match op.toNat with
  | 0x01 => some (.enable par)
  | 0x02 => some (.bright par)
  | 0x03 => some (.mode par)
  | 0x04 => some (.color par)
  | 0x05 => some (.dir par)
  | 0x06 => some (.count par)
  | 0x07 => some (.spdh par)
  | 0x08 => some (.spdl par)
  | 0x09 => some (.reset par)
  | 0x0A => some (.regh par)
  | 0x0B => some (.regl par)
  | _ => none

/-- The instruction a 24-bit window holds, or why it holds none: `op = w[23:16]`, `par = w[15:8]` (30_encoding.md
R63, R65, R66). -/
def decodeWindow (w : Window) : Except Reject Instr :=
  if recognised w then
    match decodeOpcode w.oldest w.middle with
    | some i => .ok i
    | none => .error (.reservedOpcode w.oldest w.middle)
  else if w.newest = Config.sync then .error .opcodeZero
  else .error .notSync

/-- The instruction at the front of a list of bytes in order of arrival, with the rest of the list (30_encoding.md
R60: opcode, parameter, sync). -/
def decodeBytes : List Byte → Except Reject (Instr × List Byte)
  | op :: par :: last :: rest => (decodeWindow (Window.ofBytes op par last)).map (fun i => (i, rest))
  | _ => .error .tooShort

/-! ## Encoding -/

/-- The opcode of a command (30_encoding.md R65). -/
def Instr.opcode : Instr → Byte
  | .enable _ => 0x01#8
  | .bright _ => 0x02#8
  | .mode _ => 0x03#8
  | .color _ => 0x04#8
  | .dir _ => 0x05#8
  | .count _ => 0x06#8
  | .spdh _ => 0x07#8
  | .spdl _ => 0x08#8
  | .reset _ => 0x09#8
  | .regh _ => 0x0A#8
  | .regl _ => 0x0B#8

/-- The parameter byte of a command (30_encoding.md R64). -/
def Instr.parameter : Instr → Byte
  | .enable par => par
  | .bright par => par
  | .mode par => par
  | .color par => par
  | .dir par => par
  | .count par => par
  | .spdh par => par
  | .spdl par => par
  | .reset par => par
  | .regh par => par
  | .regl par => par

/-- The 24-bit word of a command: `[opcode][parameter][0xFF]`, opcode most significant (30_encoding.md R60). -/
def encode (i : Instr) : Window := Window.ofBytes i.opcode i.parameter Config.sync

/-- The three bytes of a command in order of arrival (30_encoding.md R60, 20_memory.md R42 a). -/
def encodeBytes (i : Instr) : List Byte := [i.opcode, i.parameter, Config.sync]

/-- `decodeTableWord nbits w`: the instruction the decoder reads from a word numbered as spec/opcode_table.json
numbers it. A row of the table is ONE word of 24 bits with the opcode at bits 23:16, which is the window's own numbering
(log 23). -/
def decodeTableWord (nbits w : Nat) : Option Instr :=
  match decodeWindow (BitVec.ofNat 24 (w % 2 ^ nbits)) with
  | .ok i => some i
  | .error _ => none

/-! ## The assembler of 30_encoding.md R70 -/

/-- A program as the bytes on the serial link; `.byte b` of R70 is the one-byte list `[b]` put between. -/
def assemble (is : List Instr) : List Byte := is.flatMap encodeBytes

/-- The pseudo-command `SPEED v16`: SPDH, then SPDL. -/
def asmSpeed (v : Word16) : List Instr := [.spdh (v.extractLsb' 8 8), .spdl (v.extractLsb' 0 8)]

/-- The pseudo-command `PROGRESS v16`: REGH, then REGL. -/
def asmProgress (v : Word16) : List Instr := [.regh (v.extractLsb' 8 8), .regl (v.extractLsb' 0 8)]

/-- `RESET` written without a value assembles with parameter 0x00. -/
def asmReset : Instr := .reset 0x00#8

/-- The named values of R70: for MODE. -/
def asmSolid : Byte := 0#8
def asmPulse : Byte := 1#8
def asmRainbow : Byte := 2#8
def asmMpulse : Byte := 3#8
def asmProgressMode : Byte := 4#8

/-- The named values of R70: for COLOR. -/
def asmRed : Byte := 0#8
def asmBlue : Byte := 1#8
def asmGreen : Byte := 2#8

/-- The named values of R70: for DIR, then for ENABLE. -/
def asmFwd : Byte := 0#8
def asmRev : Byte := 1#8
def asmOff : Byte := 0#8
def asmOn : Byte := 1#8

end Sys2Proof
end

