-- ==== Sys2Proof/Machine/Memory.lean ====
section
/-! DEFINITION. The frame buffer as a list of cells in one canonical form (20_memory.md R40, R41, R44): addresses
strictly rising, no cell equal to what an unlisted address reads as. -/

namespace Sys2Proof.Machine

/-- The frame buffer's bytes that differ from the reset contents, by address. -/
abbrev Memory := List Host.Cell

/-- What an unlisted address reads as: the frame buffer is "created zeroed at boot" (10_state.md R23). -/
def Memory.unlisted : Byte := 0#8

/-- The byte at an address. -/
def Memory.get : Memory → Nat → Byte
  | [], _ => Memory.unlisted
  | (k, v) :: rest, a => if a = k then v else Memory.get rest a

/-- The memory with one byte replaced, in canonical form again. -/
def Memory.put : Memory → Nat → Byte → Memory
  | [], a, v => if v = Memory.unlisted then [] else [(a, v)]
  | (k, w) :: rest, a, v =>
    if a < k then
      if v = Memory.unlisted then (k, w) :: rest else (a, v) :: (k, w) :: rest
    else if a = k then
      if v = Memory.unlisted then rest else (a, v) :: rest
    else (k, w) :: Memory.put rest a v

/-- Every address of the list is at or above `low`, and they rise strictly. -/
def Memory.risingFrom (low : Nat) : Memory → Bool
  | [] => true
  | (k, _) :: rest => decide (low ≤ k) && Memory.risingFrom (k + 1) rest

/-- The canonical form of a frame buffer of `size` bytes. -/
def Memory.wf (size : Nat) (m : Memory) : Bool :=
  Memory.risingFrom 0 m && m.all (fun cell => decide (cell.1 < size) && cell.2 != Memory.unlisted)

/-- The byte address of channel `c` (0 R, 1 G, 2 B) of pixel `i` (20_memory.md R41). -/
def pixelAddr (i c : Nat) : Nat := 3 * i + c

end Sys2Proof.Machine
end

