-- ==== Sys2Proof/Machine/Bits.lean ====
section
/-! DEFINITION. Bit-field helpers of the machine (00_scope.md R6): the halves of a 16-bit register and their join. -/

namespace Sys2Proof.Machine

/-- `v[15:8]`. -/
def hi8 (v : Word16) : Byte := v.extractLsb' 8 8

/-- `v[7:0]`. -/
def lo8 (v : Word16) : Byte := v.extractLsb' 0 8

/-- `{hi, lo}`: the more significant byte first (20_memory.md R42 b). -/
def join16 (hi lo : Byte) : Word16 := hi ++ lo

end Sys2Proof.Machine
end

