-- ==== Sys2Proof/Machine/Registers.lean ====
section
/-! DEFINITION. The configuration registers (10_state.md R34, R11 to R20), the one place that reads and writes them,
and their reset values (R32). -/

namespace Sys2Proof.Machine

/-- The nine configuration registers: 8 bits of storage holding the raw parameter byte of the last command that wrote
it, 16 for `progressRegister` (10_state.md R34). -/
structure Cfg where
  /-- R11. -/
  enabled : Byte
  /-- R12. -/
  brightnessPercent : Byte
  /-- R13. -/
  mode : Byte
  /-- R14. -/
  colorChannel : Byte
  /-- R15. -/
  direction : Byte
  /-- R16. -/
  pixelCount : Byte
  /-- R17. -/
  speedHigh : Byte
  /-- R18. -/
  speedLow : Byte
  /-- R19. -/
  progressRegister : Word16
  deriving DecidableEq, Repr

/-- The byte-wide write ports of the configuration register space, one per writing opcode; `progressRegister` is
"written a byte at a time" (20_memory.md R40, 10_state.md R34). -/
inductive CfgPort where
  | enabled
  | brightness
  | mode
  | color
  | direction
  | count
  | speedHigh
  | speedLow
  | progressHigh
  | progressLow
  deriving DecidableEq, Repr

/-- The byte a port's register holds. -/
def Cfg.read (c : Cfg) : CfgPort → Byte
  | .enabled => c.enabled
  | .brightness => c.brightnessPercent
  | .mode => c.mode
  | .color => c.colorChannel
  | .direction => c.direction
  | .count => c.pixelCount
  | .speedHigh => c.speedHigh
  | .speedLow => c.speedLow
  | .progressHigh => hi8 c.progressRegister
  | .progressLow => lo8 c.progressRegister

/-- One whole register (one byte of `progressRegister`, the other byte unchanged) written (20_memory.md R45,
40_commands.md R90, R91). -/
def Cfg.write (c : Cfg) (r : CfgPort) (v : Byte) : Cfg :=
  match r with
  | .enabled => { c with enabled := v }
  | .brightness => { c with brightnessPercent := v }
  | .mode => { c with mode := v }
  | .color => { c with colorChannel := v }
  | .direction => { c with direction := v }
  | .count => { c with pixelCount := v }
  | .speedHigh => { c with speedHigh := v }
  | .speedLow => { c with speedLow := v }
  | .progressHigh => { c with progressRegister := join16 v (lo8 c.progressRegister) }
  | .progressLow => { c with progressRegister := join16 (hi8 c.progressRegister) v }

/-- The registers after reset (10_state.md R32): the values the spec states, and the OPEN parameters where it states
none. -/
def Cfg.atReset (p : Config.Params) : Cfg where
  enabled := if p.enabledReset then 1#8 else 0#8
  brightnessPercent := 100#8
  mode := 0#8
  colorChannel := 2#8
  direction := if p.directionReset then 1#8 else 0#8
  pixelCount := BitVec.ofNat 8 p.capacity
  speedHigh := hi8 p.speedReset
  speedLow := lo8 p.speedReset
  progressRegister := p.progressReset

end Sys2Proof.Machine
end

