-- ==== Sys2Proof/Machine/Waveform.lean ====
section
/-! DEFINITION. What a frame is on the data line: byte order, bit order, symbols, waveforms (42_serializer.md R133 to
R137). Pure functions; the serializer that drives them is Machine/Serializer.lean. -/

namespace Sys2Proof.Machine

/-- A pixel: "three independent 8-bit channel intensities (R, G, B)" (00_scope.md R8). -/
structure Pixel where
  r : Byte
  g : Byte
  b : Byte
  deriving DecidableEq, Repr

/-- The pixel `(0, 0, 0)`. -/
def Pixel.black : Pixel := ⟨0#8, 0#8, 0#8⟩

/-- One symbol on the data line (42_serializer.md R135, R136). -/
inductive Symbol where
  | b0
  | b1
  | latch
  deriving DecidableEq, Repr

/-- The bytes of a pixel on the wire: G, then R, then B (42_serializer.md R133). -/
def pixbytes (p : Pixel) : List Byte := [p.g, p.r, p.b]

/-- The bits of a byte on the wire: most significant first (42_serializer.md R134). -/
def bits8 (v : Byte) : List Bool :=
  [v.getLsbD 7, v.getLsbD 6, v.getLsbD 5, v.getLsbD 4, v.getLsbD 3, v.getLsbD 2, v.getLsbD 1, v.getLsbD 0]

/-- The 24 bits of a pixel (42_serializer.md R134). -/
def pixbits (p : Pixel) : List Bool := (pixbytes p).flatMap bits8

/-- The `24 * n` bits of a frame, pixel 0 first (42_serializer.md R134). -/
def framebits (px : List Pixel) : List Bool := px.flatMap pixbits

/-- The symbol of a bit (42_serializer.md R137). -/
def symbolOf (bit : Bool) : Symbol := if bit then .b1 else .b0

/-- `frame_symbols`: the bits of the frame, then the latch (42_serializer.md R137). -/
def frameSymbols (px : List Pixel) : List Symbol := (framebits px).map symbolOf ++ [.latch]

/-- The levels of the data line for a symbol, one per unit, `true` high (42_serializer.md R135, R136). -/
def wave (latchUnits : Nat) : Symbol → List Bool
  | .b0 => List.replicate Config.t0h true ++ List.replicate Config.t0l false
  | .b1 => List.replicate Config.t1h true ++ List.replicate Config.t1l false
  | .latch => List.replicate latchUnits false

/-- `frame_wave`: the levels of a whole frame (42_serializer.md R137). -/
def frameWave (latchUnits : Nat) (px : List Pixel) : List Bool :=
  (frameSymbols px).flatMap (wave latchUnits)

/-- The channel of the storage order R, G, B that position `k` of the wire order G, R, B reads: 1, 0, 2
(42_serializer.md R138, 20_memory.md R41). -/
def wireChannel (k : Nat) : Nat :=
  match k with
  | 0 => 1
  | 1 => 0
  | _ => 2

/-- The level of the data line in unit `u` of the cell of a bit (42_serializer.md R138, state SHIFT). -/
def cellLevel (u : Nat) (bit : Bool) : Bool := u == 0 || (u == 1 && bit)

end Sys2Proof.Machine
end

