-- ==== Sys2Proof/Machine/State.lean ====
section
/-! DEFINITION. The machine's state as plain data: everything 10_state.md R10 lists, the output lists of R26, and the
model's own fields (the parameters, the schedule, the index of the free values). The reset state (R32), the faults and the
refusals. -/

namespace Sys2Proof.Machine

/-- One byte write of a generation cycle, `MemWrite(addr, 1, val)` (41_generator.md R115). -/
structure ByteWrite where
  addr : Nat
  val : Byte
  deriving DecidableEq, Repr

/-- `ms`, the main-sequencer position (10_state.md R24). -/
inductive MainPos where
  /-- `DRAIN`: about to examine the window. -/
  | drain
  /-- `GEN(q)`: `q` is the byte writes of this generation cycle not yet performed, in order. -/
  | gen (q : List ByteWrite)
  deriving DecidableEq, Repr

/-- `ser.state` (10_state.md R25). -/
inductive SerState where
  | idle
  | shift
  | latch
  deriving DecidableEq, Repr

/-- The serializer registers (10_state.md R25, 42_serializer.md R138). `latch` counts up to `T_LATCH_UNITS`, which has no
bound in the spec, so it is a number. -/
structure Serializer where
  state : SerState
  en : Bool
  count : Byte
  pix : Byte
  byte : Fin 3
  bit : Fin 8
  unit : Fin 3
  latch : Nat
  deriving DecidableEq, Repr

/-- The serializer after reset: IDLE (10_state.md R32). The other fields are "unspecified at reset and are written before
they are read" (R25): zero here, DESIGN CHOICE, log 5. -/
def Serializer.atReset : Serializer := ⟨.idle, false, 0#8, 0#8, 0, 0, 0, 0⟩

/-- What the schedule lets happen next (00_scope.md R4, R9; log 1). -/
inductive Event where
  /-- The block's one thread of control takes a step: the serializer if it is busy, else the main sequencer. -/
  | run
  /-- The serial source offers a byte: `RxShift(b)` as soon as `rx_ready` is high (30_encoding.md R61; log 16). -/
  | byte (b : Byte)
  /-- The scheduler's tick (42_serializer.md R130). -/
  | tick
  /-- The `rst` port (70_reset_and_hazards.md R170, R171; log 14). -/
  | rst
  deriving DecidableEq, Repr

/-- Why a run has left the documented contract (60_exceptions.md R150: these are not hardware events). -/
inductive Fault where
  /-- Raised by a tick while the serializer is busy (42_serializer.md R141, 93_implementation_defined.md U8). Safe: the
  model stops where the source says the behaviour is undefined. -/
  | tickOverrun
  /-- Raised by a step of a generation cycle, or by a tick, while `pixelCount > CAPACITY`, and by any access to a
  frame-buffer address that does not exist (20_memory.md R46, 41_generator.md R119, 42_serializer.md R145, U6). Safe: the
  model stops where the spec gives no effect. -/
  | pixelCountOverCapacity
  deriving DecidableEq, Repr

/-- Why the model gives an instruction no meaning. -/
inductive Refusal where
  /-- Raised by an arm of `exec` whose instruction has no meaning yet: none. Safe: the model stops. -/
  | notModelled (mnemonic : String)
  deriving DecidableEq, Repr

/-- The state (10_state.md R10). -/
structure State where
  /-- The model's own: the parameters of 00_scope.md R5 (log 2). No step changes them. -/
  params : Config.Params
  /-- The nine configuration registers (R11 to R19). -/
  cfg : Cfg
  /-- The phase (R21). -/
  time : Word16
  /-- The receive window (R22). -/
  rxwin : Window
  /-- The frame buffer (R23). -/
  fb : Memory
  /-- The main-sequencer position (R24). -/
  ms : MainPos
  /-- The serializer registers (R25). -/
  ser : Serializer
  /-- The level of the data line, `true` high (R25). -/
  dout : Bool
  /-- Output: the frames driven on the data line, oldest first (R26). -/
  line : List (List Symbol)
  /-- Output: the echo bytes, oldest first (R26). -/
  echo : List Byte
  /-- The model's own: the schedule of the agents and the inputs to come (log 1). -/
  agenda : List Event
  /-- The model's own: the index of the next free value (log 7). -/
  draws : Nat
  deriving DecidableEq, Repr

/-- The state after reset for given parameters (10_state.md R32). -/
def State.resetWith (p : Config.Params) : State where
  params := p
  cfg := Cfg.atReset p
  time := 0#16
  rxwin := 0#24
  fb := []
  ms := .drain
  ser := Serializer.atReset
  dout := false
  line := []
  echo := []
  agenda := []
  draws := 0

/-- The machine right after reset, with the parameters of log 3 and log 4. -/
def State.reset : State := State.resetWith Config.exampleParams

/-! ## One named update per field, through which every operation writes it -/

def State.setCfg (s : State) (v : Cfg) : State := { s with cfg := v }
def State.setTime (s : State) (v : Word16) : State := { s with time := v }
def State.setRxwin (s : State) (v : Window) : State := { s with rxwin := v }
def State.setFb (s : State) (v : Memory) : State := { s with fb := v }
def State.setMs (s : State) (v : MainPos) : State := { s with ms := v }
def State.setSer (s : State) (v : Serializer) : State := { s with ser := v }
def State.setDout (s : State) (v : Bool) : State := { s with dout := v }
def State.setLine (s : State) (v : List (List Symbol)) : State := { s with line := v }
def State.setEcho (s : State) (v : List Byte) : State := { s with echo := v }
def State.setAgenda (s : State) (v : List Event) : State := { s with agenda := v }
def State.setDraws (s : State) (v : Nat) : State := { s with draws := v }

end Sys2Proof.Machine
end

