-- ==== Sys2Proof/Machine/Flags.lean ====
section
/-! DEFINITION. There are no flags, condition codes or status bits, and no command writes or reads one (10_state.md R28).
What stands here are the conditions the agents test: each is computed from the state and none is stored. -/

namespace Sys2Proof.Machine

/-- `rx_ready` (30_encoding.md R61): with `RX_BACKPRESSURE`, low while the window holds an undrained command. -/
def State.rxReady (s : State) : Bool := !(s.params.rxBackpressure && recognised s.rxwin)

/-- The serializer is busy: a frame or its latch is in progress (42_serializer.md R138, R141). -/
def State.busy (s : State) : Bool := s.ser.state != .idle

/-- The frame-buffer space of `3 * CAPACITY` bytes (20_memory.md R40). -/
def State.fbSize (s : State) : Nat := 3 * s.params.capacity

/-- `pixelCount > CAPACITY` (20_memory.md R46). -/
def State.overCapacity (s : State) : Bool := decide (s.params.capacity < s.cfg.pixelCount.toNat)

end Sys2Proof.Machine
end

