-- ==== Sys2Proof/Machine/Operands.lean ====
section
/-! DEFINITION. The operands: a command's parameter is a byte used as is (30_encoding.md R64), so what is left is how the
engines read the registers: the 16-bit views assembled from two bytes (10_state.md R19, R20) and the enumerations (R13 to
R15). -/

namespace Sys2Proof.Machine

/-- The animation modes (10_state.md R13). -/
inductive Mode where
  | solid
  | pulse
  | rainbow
  | movingPulse
  | progressBar
  deriving DecidableEq, Repr

/-- The colour channels (10_state.md R14). -/
inductive Channel where
  | red
  | blue
  | green
  deriving DecidableEq, Repr

/-- The directions (10_state.md R15). -/
inductive Direction where
  | forward
  | reverse
  deriving DecidableEq, Repr

/-- `speed = {speedHigh, speedLow}`, a read-only view (10_state.md R20). -/
def Cfg.speed (c : Cfg) : Word16 := join16 c.speedHigh c.speedLow

/-- `divisor = progressRegister[15:8]` (10_state.md R19). -/
def Cfg.divisor (c : Cfg) : Byte := hi8 c.progressRegister

/-- `frac = progressRegister[7:0]` (10_state.md R19). -/
def Cfg.frac (c : Cfg) : Byte := lo8 c.progressRegister

/-- The mode a mode register selects: 0 to 4, none for a value outside the domain (10_state.md R13). -/
def modeOf (v : Byte) : Option Mode :=
  match v.toNat with
  | 0 => some .solid
  | 1 => some .pulse
  | 2 => some .rainbow
  | 3 => some .movingPulse
  | 4 => some .progressBar
  | _ => none

/-- The channel a colour register selects: 0 Red, 1 Blue, 2 Green (10_state.md R14). -/
def channelOf (v : Byte) : Option Channel :=
  match v.toNat with
  | 0 => some .red
  | 1 => some .blue
  | 2 => some .green
  | _ => none

/-- The direction a direction register selects: 0 Forward, 1 Reverse (10_state.md R15). -/
def directionOf (v : Byte) : Option Direction :=
  match v.toNat with
  | 0 => some .forward
  | 1 => some .reverse
  | _ => none

/-- The brightness, in its legal domain 0 to 100 (10_state.md R12). -/
def brightnessOf (v : Byte) : Option Byte := if v.toNat ≤ 100 then some v else none

/-- The display enable as the tick reads it: 0 off, 1 on, no meaning for another value (10_state.md R11). -/
def enabledOf (v : Byte) : Option Bool :=
  match v.toNat with
  | 0 => some false
  | 1 => some true
  | _ => none

end Sys2Proof.Machine
end

