-- ==== Sys2Proof/Machine/Ops.lean ====
section
/-! DEFINITION. The shared operations over registers, window, frame buffer and outputs; the restart; the tick's entry and
return, the block's only "trap entry" and return (60_exceptions.md R152, R153). -/

namespace Sys2Proof.Machine

/-- What a step of the machine answers. -/
abbrev StepResult := Host.Outcome State Fault Refusal

/-- Go on from a next state; a fault or a refusal stands. -/
def andThen (r : StepResult) (f : State → StepResult) : StepResult :=
  match r with
  | .next s => f s
  | .fault e => .fault e
  | .refused e => .refused e

/-! ## Registers, window, echo -/

/-- `cfg.r <- v` (10_state.md R34, 20_memory.md R45). -/
def writeReg (r : CfgPort) (v : Byte) (s : State) : State := s.setCfg (s.cfg.write r v)

/-- `RxShift(b)`: reads and writes `rxwin` only (30_encoding.md R61). -/
def rxShift (b : Byte) (s : State) : State := s.setRxwin (s.rxwin.shiftIn b)

/-- `emit_echo(op, par)`: the two bytes, opcode first, if `ECHO_ENABLE` (30_encoding.md R69). -/
def emitEcho (op par : Byte) (s : State) : State :=
  if s.params.echoEnable then s.setEcho (s.echo ++ [op, par]) else s

/-! ## The frame buffer -/

/-- `MemRead(a, 1)`; none at an address that does not exist (00_scope.md R7, 20_memory.md R40, R46). -/
def memRead (s : State) (a : Nat) : Option Byte :=
  if a < s.fbSize then some (Memory.get s.fb a) else none

/-- `MemWrite(a, 1, v)`; none at an address that does not exist. -/
def memWrite (s : State) (a : Nat) (v : Byte) : Option State :=
  if a < s.fbSize then some (s.setFb (Memory.put s.fb a v)) else none

/-- `FB[i]` (20_memory.md R41). -/
def pixelAt (m : Memory) (i : Nat) : Pixel :=
  ⟨Memory.get m (pixelAddr i 0), Memory.get m (pixelAddr i 1), Memory.get m (pixelAddr i 2)⟩

/-! ## Reset -/

/-- `restart()` (70_reset_and_hazards.md R170): every register and every frame-buffer byte takes its reset value, nothing
is driven and nothing is echoed. The parameters, the outputs already sent, the schedule and the index of the free values are
not the block's state and stay (log 15). -/
def restart (s : State) : State :=
  { State.resetWith s.params with line := s.line, echo := s.echo, agenda := s.agenda, draws := s.draws }

/-! ## The data line -/

/-- The byte the serializer is sending: 0 if the captured enable is 0, else the frame-buffer byte of the current pixel and
wire position (42_serializer.md R138 `cur`). -/
def currentByte (s : State) : Option Byte :=
  if s.ser.en then memRead s (pixelAddr s.ser.pix.toNat (wireChannel s.ser.byte.val)) else some 0#8

/-- The level the serializer's position gives the data line (42_serializer.md R138, R139): low in IDLE and LATCH. -/
def lineLevel (s : State) : Option Bool :=
  match s.ser.state with
  | .idle => some false
  | .latch => some false
  | .shift => (currentByte s).map (fun cur => cellLevel s.ser.unit.val (cur.getLsbD s.ser.bit.val))

/-- `dout` put at the level of the serializer's position. The read it needs does not exist only where the position lies
outside the frame buffer, which no run reaches (log 11). -/
def driveLine (s : State) : StepResult :=
  match lineLevel s with
  | some level => .next (s.setDout level)
  | none => .fault .pixelCountOverCapacity

/-! ## The tick: entry and return -/

/-- The enable the tick captures. For `enabled >= 2` the frame is live or dark, drawn freely (93_implementation_defined.md
U1, 42_serializer.md R145; log 8). -/
def capturedEnable (s : State) : Bool := (enabledOf s.cfg.enabled).getD (Config.freeBit s.draws)

/-- How many free values the tick uses. -/
def captureDraws (s : State) : Nat := if (enabledOf s.cfg.enabled).isSome then 0 else 1

/-- The serializer at the start of a frame (42_serializer.md R138 "on tick"): SHIFT if there is a pixel, else LATCH. -/
def serializerStart (en : Bool) (count : Byte) : Serializer where
  state := if count = 0#8 then .latch else .shift
  en := en
  count := count
  pix := 0#8
  byte := 0
  bit := 7
  unit := 0
  latch := 0

/-- Tick entry (60_exceptions.md R152): the main sequencer stays where it is, nothing is saved; the serializer captures
`enabled` and `pixelCount` once (42_serializer.md R131) and starts. A tick while busy is `TickOverrun` (R141, log 12), one
with `pixelCount > CAPACITY` is `PixelCountOverCapacity` (R145, log 11). -/
def takeTick (s : State) : StepResult :=
  if s.busy then .fault .tickOverrun
  else if s.overCapacity then .fault .pixelCountOverCapacity
  else driveLine ((s.setSer (serializerStart (capturedEnable s) s.cfg.pixelCount)).setDraws (s.draws + captureDraws s))

/-- The pixels a frame of `n` pixels sends: the frame buffer's if enabled, else black (42_serializer.md R130, R132). -/
def sentPixels (m : Memory) (en : Bool) (n : Nat) : List Pixel :=
  (List.range n).map (fun i => if en then pixelAt m i else Pixel.black)

/-- Tick return (60_exceptions.md R153): nothing is restored; the frame that has been driven is appended to `line`
(42_serializer.md R130, R137). It is computed here from the frame buffer, which nothing writes during a transmission
(20_memory.md R48; log 13). -/
def returnFromTick (s : State) : State :=
  s.setLine (s.line ++ [frameSymbols (sentPixels s.fb s.ser.en s.ser.count.toNat)])

end Sys2Proof.Machine
end

