-- ==== Sys2Proof/Machine/Display.lean ====
section
/-! DEFINITION. The commands that write one whole display register: ENABLE, BRIGHT, MODE, COLOR, DIR, COUNT
(40_commands.md R81 to R86). -/

namespace Sys2Proof.Machine

/-- ENABLE: `cfg.enabled <- par` (40_commands.md R81). -/
def execEnable (par : Byte) (s : State) : StepResult := .next (writeReg .enabled par s)

/-- BRIGHT: `cfg.brightnessPercent <- par` (40_commands.md R82). -/
def execBright (par : Byte) (s : State) : StepResult := .next (writeReg .brightness par s)

/-- MODE: `cfg.mode <- par; time <- 0`, whatever the mode was (40_commands.md R83). -/
def execMode (par : Byte) (s : State) : StepResult := .next ((writeReg .mode par s).setTime 0#16)

/-- COLOR: `cfg.colorChannel <- par` (40_commands.md R84). -/
def execColor (par : Byte) (s : State) : StepResult := .next (writeReg .color par s)

/-- DIR: `cfg.direction <- par`; `time` is not reset (40_commands.md R85). -/
def execDir (par : Byte) (s : State) : StepResult := .next (writeReg .direction par s)

/-- COUNT: `cfg.pixelCount <- par`; the frame buffer is not touched (40_commands.md R86). -/
def execCount (par : Byte) (s : State) : StepResult := .next (writeReg .count par s)

end Sys2Proof.Machine
end

