-- ==== Sys2Proof/Machine/Halves.lean ====
section
/-! DEFINITION. The commands that write one byte of a 16-bit quantity: SPDH, SPDL, REGH, REGL (40_commands.md R87, R88,
R90, R91). -/

namespace Sys2Proof.Machine

/-- SPDH: `cfg.speedHigh <- par` (40_commands.md R87). -/
def execSpdh (par : Byte) (s : State) : StepResult := .next (writeReg .speedHigh par s)

/-- SPDL: `cfg.speedLow <- par` (40_commands.md R88). -/
def execSpdl (par : Byte) (s : State) : StepResult := .next (writeReg .speedLow par s)

/-- REGH: `cfg.progressRegister <- {par, cfg.progressRegister[7:0]}` (40_commands.md R90). -/
def execRegh (par : Byte) (s : State) : StepResult := .next (writeReg .progressHigh par s)

/-- REGL: `cfg.progressRegister <- {cfg.progressRegister[15:8], par}` (40_commands.md R91). -/
def execRegl (par : Byte) (s : State) : StepResult := .next (writeReg .progressLow par s)

end Sys2Proof.Machine
end

