-- ==== Sys2Proof/Machine/System.lean ====
section
/-! DEFINITION. The one system command, RESET (40_commands.md R89). -/

namespace Sys2Proof.Machine

/-- RESET: `restart()`, the full restart; the parameter is ignored (40_commands.md R89, 70_reset_and_hazards.md R170). -/
def execReset (_par : Byte) (s : State) : StepResult := .next (restart s)

end Sys2Proof.Machine
end

