-- ==== Sys2Proof/Machine/Dispatch.lean ====
section
/-! DEFINITION. `apply(op, par)` of 40_commands.md R80: one arm per command. -/

namespace Sys2Proof.Machine

def exec (i : Instr) (s : State) : Host.Outcome State Fault Refusal :=
  match i with
  | .enable par => Sys2Proof.Machine.execEnable par s
  | .bright par => Sys2Proof.Machine.execBright par s
  | .mode par => Sys2Proof.Machine.execMode par s
  | .color par => Sys2Proof.Machine.execColor par s
  | .dir par => Sys2Proof.Machine.execDir par s
  | .count par => Sys2Proof.Machine.execCount par s
  | .spdh par => Sys2Proof.Machine.execSpdh par s
  | .spdl par => Sys2Proof.Machine.execSpdl par s
  | .reset par => Sys2Proof.Machine.execReset par s
  | .regh par => Sys2Proof.Machine.execRegh par s
  | .regl par => Sys2Proof.Machine.execRegl par s

end Sys2Proof.Machine
end

