-- ==== Sys2Proof/Machine/Generator.lean ====
section
/-! DEFINITION. The Animation Generator (41_generator.md): scaling, phases, the five modes, the byte writes of a cycle and
the steps that perform them. -/

namespace Sys2Proof.Machine

/-! ## Scaling and placement (41_generator.md R102, R103) -/

/-- `scale(v, b) = (v * b) div 100`. -/
def scale (v b : Byte) : Byte := BitVec.ofNat 8 (v.toNat * b.toNat / 100)

/-- `place(v, ch)`: the scalar on the selected channel, zero on the others. -/
def place (v : Byte) : Channel → Pixel
  | .red => ⟨v, 0#8, 0#8⟩
  | .blue => ⟨0#8, 0#8, v⟩
  | .green => ⟨0#8, v, 0#8⟩

/-! ## Phases (41_generator.md R104) -/

/-- The signed step of the direction: `STEP`, or `0 -_16 STEP`. -/
def phaseStep (step : Word16) : Direction → Word16
  | .forward => step
  | .reverse => 0#16 - step

/-- `phase(i) = t +_16 ((n - 1 - i) *_16 s)` for a pixel `i < n`. -/
def phase (t s : Word16) (n i : Nat) : Word16 := t + BitVec.ofNat 16 (n - 1 - i) * s

/-! ## The raw-intensity functions (41_generator.md R106, R108, R110) -/

/-- `phi >> 8`, 0 to 255 (41_generator.md R116 b). -/
def phaseHigh (phi : Word16) : Nat := phi.toNat / 256

/-- `pulse(phi)` (41_generator.md R106). -/
def pulse (phi : Word16) : Byte :=
  let p := phaseHigh phi
  BitVec.ofNat 8 (if p < 0x80 then p * 2 else 255 - (p - 0x80) * 2)

/-- `mpulse(phi)` (41_generator.md R110). -/
def mpulse (phi : Word16) : Byte :=
  let p := phaseHigh phi
  BitVec.ofNat 8 (if p < 0x80 then 0 else if p < 0xC0 then (p - 0x80) * 4 else 255 - (p - 0xC0) * 4)

/-- `h = min(phi div 42, 0x5FF)` (41_generator.md R108). -/
def hue (phi : Word16) : Nat := min (phi.toNat / Config.rainbowDiv) Config.rainbowMax

/-- The colour of position `x` in segment `seg` of the hue circle (41_generator.md R108). -/
def hueColour (seg x : Nat) : Pixel :=
  let up := BitVec.ofNat 8 x
  let down := BitVec.ofNat 8 (255 - x)
  match seg with
  | 0 => ⟨255#8, up, 0#8⟩
  | 1 => ⟨down, 255#8, 0#8⟩
  | 2 => ⟨0#8, 255#8, up⟩
  | 3 => ⟨0#8, down, 255#8⟩
  | 4 => ⟨up, 0#8, 255#8⟩
  | _ => ⟨255#8, 0#8, down⟩

/-- `rainbow(phi)` (41_generator.md R108). -/
def rainbow (phi : Word16) : Pixel := hueColour (hue phi / 256) (hue phi % 256)

/-- Each channel scaled separately (41_generator.md R109). -/
def scalePixel (p : Pixel) (b : Byte) : Pixel := ⟨scale p.r b, scale p.g b, scale p.b b⟩

/-! ## The five modes (41_generator.md R105, R107, R109, R111, R112, R113) -/

/-- The pixels a mode writes: all active ones, and in ProgressBar those up to the bar's end, none for divisor 0. -/
def paintedPixels (m : Mode) (n divisor : Nat) : List Nat :=
  match m with
  | .solid => List.range n
  | .pulse => List.range n
  | .rainbow => List.range n
  | .movingPulse => List.range n
  | .progressBar => if divisor = 0 then [] else List.range (min n (n / divisor + 1))

/-- Solid: full intensity on the selected channel (41_generator.md R105). -/
def solidPixel (b : Byte) (ch : Channel) : Pixel := place (scale 255#8 b) ch

/-- Pulse: every pixel shares the one phase (41_generator.md R107). -/
def pulsePixel (b : Byte) (ch : Channel) (t : Word16) : Pixel := place (scale (pulse t) b) ch

/-- Rainbow (41_generator.md R109). -/
def rainbowPixel (b : Byte) (d : Direction) (t : Word16) (n i : Nat) : Pixel :=
  scalePixel (rainbow (phase t (phaseStep Config.rainbowStep d) n i)) b

/-- MovingPulse (41_generator.md R111). -/
def movingPulsePixel (b : Byte) (ch : Channel) (d : Direction) (t : Word16) (n i : Nat) : Pixel :=
  place (scale (mpulse (phase t (phaseStep Config.movingPulseStep d) n i)) b) ch

/-- ProgressBar: full below `full = n div divisor`, the fractional intensity at it (41_generator.md R112). -/
def progressPixel (b : Byte) (ch : Channel) (n divisor : Nat) (frac : Byte) (i : Nat) : Pixel :=
  place (scale (if i < n / divisor then 255#8 else frac) b) ch

/-- The colour function of a mode, none where a register the mode reads is outside its legal domain (41_generator.md
R101, R119; 93_implementation_defined.md U2, U4, U5). -/
def pixelColour (c : Cfg) (t : Word16) (m : Mode) : Option (Nat → Pixel) :=
  match brightnessOf c.brightnessPercent with
  | none => none
  | some b =>
    match m with
    | .solid => (channelOf c.colorChannel).map (fun ch _ => solidPixel b ch)
    | .pulse => (channelOf c.colorChannel).map (fun ch _ => pulsePixel b ch t)
    | .rainbow => (directionOf c.direction).map (fun d => rainbowPixel b d t c.pixelCount.toNat)
    | .movingPulse =>
      match channelOf c.colorChannel, directionOf c.direction with
      | some ch, some d => some (movingPulsePixel b ch d t c.pixelCount.toNat)
      | _, _ => none
    | .progressBar =>
      (channelOf c.colorChannel).map (fun ch => progressPixel b ch c.pixelCount.toNat c.divisor.toNat c.frac)

/-! ## The frame of a cycle -/

/-- Three free bytes for pixel `i`, of the cycle whose first free value has index `k` (log 9). -/
def freePixel (k i : Nat) : Pixel :=
  ⟨Config.freeByte (k + 3 * i), Config.freeByte (k + 3 * i + 1), Config.freeByte (k + 3 * i + 2)⟩

/-- `frame(cfg, time)` (41_generator.md R100, R101), the pixels the cycle writes in ascending index. Where a register is
outside its legal domain the result is "any value" (R119): the bytes are free values (log 9), and with `mode >= 5` each
active pixel may also be left unwritten (93_implementation_defined.md U3; log 10). `k` is the index of the next free value. -/
def frame (c : Cfg) (t : Word16) (k : Nat) : List (Nat × Pixel) :=
  match modeOf c.mode with
  | some m =>
    match pixelColour c t m with
    | some colour => (paintedPixels m c.pixelCount.toNat c.divisor.toNat).map (fun i => (i, colour i))
    | none => (paintedPixels m c.pixelCount.toNat c.divisor.toNat).map (fun i => (i, freePixel k i))
  | none =>
    ((List.range c.pixelCount.toNat).filter (fun i => Config.freeBit (k + 3 * i))).map (fun i => (i, freePixel k i))

/-- Whether the cycle's frame is defined: every register its mode reads is in its legal domain (41_generator.md R101). -/
def frameDefined (c : Cfg) : Bool :=
  match modeOf c.mode with
  | some m => (pixelColour c 0#16 m).isSome
  | none => false

/-- How many free values a cycle uses: three for each active pixel where its frame is not defined. -/
def frameDraws (c : Cfg) : Nat := if frameDefined c then 0 else 3 * c.pixelCount.toNat

/-! ## Write order and steps (41_generator.md R115) -/

/-- The three byte writes of a pixel, R, then G, then B. -/
def pixelWrites (ip : Nat × Pixel) : List ByteWrite :=
  [⟨pixelAddr ip.1 0, ip.2.r⟩, ⟨pixelAddr ip.1 1, ip.2.g⟩, ⟨pixelAddr ip.1 2, ip.2.b⟩]

/-- `writes(cfg, time)`: the byte writes of the cycle in order. -/
def writes (c : Cfg) (t : Word16) (k : Nat) : List ByteWrite := (frame c t k).flatMap pixelWrites

/-- `ms <- GEN(writes(cfg, time))` (40_commands.md R80, last line). -/
def startCycle (s : State) : State :=
  (s.setMs (.gen (writes s.cfg s.time s.draws))).setDraws (s.draws + frameDraws s.cfg)

/-- The end of a cycle: `time <- time +_16 speed`, `ms <- DRAIN` (41_generator.md R114, R115). -/
def endCycle (s : State) : State := (s.setTime (s.time + s.cfg.speed)).setMs .drain

/-- `GenStep` with the queue `q` (41_generator.md R115): one byte write, or the phase advance. A cycle with
`pixelCount > CAPACITY` is the model fault (R119, 20_memory.md R46; log 11). -/
def genStep (q : List ByteWrite) (s : State) : StepResult :=
  if s.overCapacity then .fault .pixelCountOverCapacity
  else
    match q with
    | [] => .next (endCycle s)
    | w :: rest =>
      match memWrite s w.addr w.val with
      | some s' => .next (s'.setMs (.gen rest))
      | none => .fault .pixelCountOverCapacity

end Sys2Proof.Machine
end

