-- ==== Sys2Proof/Machine/Serializer.lean ====
section
/-! DEFINITION. The serializer's per-unit machine (42_serializer.md R138), and beside it the whole tick as one atomic step
(R130), which the per-unit machine refines. -/

namespace Sys2Proof.Machine

/-- The next position in state SHIFT: unit, then bit, then byte, then pixel, then LATCH (42_serializer.md R138). -/
def advanceShift (z : Serializer) : Serializer :=
  if z.unit.val < 2 then { z with unit := Fin.ofNat 3 (z.unit.val + 1) }
  else
    let z := { z with unit := 0 }
    if 0 < z.bit.val then { z with bit := Fin.ofNat 8 (z.bit.val - 1) }
    else
      let z := { z with bit := 7 }
      if z.byte.val < 2 then { z with byte := Fin.ofNat 3 (z.byte.val + 1) }
      else
        let z := { z with byte := 0 }
        if z.pix.toNat + 1 < z.count.toNat then { z with pix := z.pix + 1#8 }
        else { z with state := .latch }

/-- The next position in state LATCH: `T_LATCH_UNITS` units, then IDLE (42_serializer.md R138). -/
def advanceLatch (latchUnits : Nat) (z : Serializer) : Serializer :=
  if z.latch + 1 < latchUnits then { z with latch := z.latch + 1 } else { z with state := .idle }

/-- One unit of `T_UNIT` (42_serializer.md R138). The end of the latch is the return from the tick. -/
def unitStep (s : State) : StepResult :=
  match s.ser.state with
  | .idle => .next s
  | .shift => driveLine (s.setSer (advanceShift s.ser))
  | .latch =>
    let z := advanceLatch s.params.tLatchUnits s.ser
    match z.state with
    | .idle => driveLine (returnFromTick (s.setSer z))
    | _ => driveLine (s.setSer z)

/-- `Tick` as ONE atomic step (42_serializer.md R130): it appends the frame to `line` and changes nothing else, but for
the index of the free values. `step` does not call it: it runs the per-unit machine, and this is what that machine is
measured against. -/
def tickWhole (s : State) : StepResult :=
  if s.busy then .fault .tickOverrun
  else if s.overCapacity then .fault .pixelCountOverCapacity
  else
    .next ((s.setLine
      (s.line ++ [frameSymbols (sentPixels s.fb (capturedEnable s) s.cfg.pixelCount.toNat)])).setDraws
        (s.draws + captureDraws s))

end Sys2Proof.Machine
end

