-- ==== Sys2Proof/Machine/Sequencer.lean ====
section
/-! DEFINITION. The main sequencer's `Drain` (40_commands.md R80), the block's one thread of control (20_memory.md R48),
and the events that are not its own. -/

namespace Sys2Proof.Machine

/-- Whether a command abandons the sequencer's cycle, so that `Drain` does not start a generation cycle: RESET alone
(40_commands.md R80, R89, R94 a). -/
def restartsSequencer : Instr → Bool
  | .reset _ => true
  | .enable _ => false
  | .bright _ => false
  | .mode _ => false
  | .color _ => false
  | .dir _ => false
  | .count _ => false
  | .spdh _ => false
  | .spdl _ => false
  | .regh _ => false
  | .regl _ => false

/-- The decode event: `rxwin <- 0`, then the echo (40_commands.md R80, 30_encoding.md R63, R69). -/
def decodeEvent (s : State) : State :=
  emitEcho s.rxwin.oldest s.rxwin.middle (s.setRxwin 0#24)

/-- `apply(op, par)` and the last line of `Drain` for a command of the table (40_commands.md R80). -/
def applyCommand (i : Instr) (s : State) : StepResult :=
  andThen (exec i s) (fun t => .next (if restartsSequencer i then t else startCycle t))

/-- `Drain` (40_commands.md R80). An opcode outside the table has its decode event and no other effect (R92; log 18). -/
def drain (s : State) : StepResult :=
  if recognised s.rxwin then
    match decodeWindow s.rxwin with
    | .ok i => applyCommand i (decodeEvent s)
    | .error _ => .next (startCycle (decodeEvent s))
  else .next (startCycle s)

/-- The main sequencer's step (00_scope.md R4). -/
def mainStep (s : State) : StepResult :=
  match s.ms with
  | .drain => drain s
  | .gen q => genStep q s

/-- A step of the one thread of control: the serializer while it is busy, otherwise the main sequencer (20_memory.md
R48 iv, 42_serializer.md R138). -/
def threadStep (s : State) : StepResult := if s.busy then unitStep s else mainStep s

/-- The next move of the machine: what the schedule names, or the thread where it names nothing (log 1). A byte offered
while `rx_ready` is low is held by the UART (70_reset_and_hazards.md R180): the event stays and the thread moves (log 16).
`rst` gives the reset state at any time (R170, R171; log 14). -/
def nextMove (s : State) : StepResult :=
  match s.agenda with
  | [] => threadStep s
  | .run :: rest => threadStep (s.setAgenda rest)
  | .byte b :: rest => if s.rxReady then .next (rxShift b (s.setAgenda rest)) else threadStep s
  | .tick :: rest => takeTick (s.setAgenda rest)
  | .rst :: rest => .next (restart (s.setAgenda rest))

/-- The state in which the very next move drains the window `w`: the window holds it, the sequencer is at `DRAIN`, the
serializer is idle with the line low, and the schedule is empty (log 19). -/
def stateAboutToDrain (s : State) (w : Window) : State :=
  ((((s.setRxwin w).setMs .drain).setSer { s.ser with state := .idle }).setDout false).setAgenda []

end Sys2Proof.Machine
end

