-- ==== Sys2Proof/Machine/Step.lean ====
section
/-! DEFINITION. One step of the machine, and where the next instruction is put. -/

namespace Sys2Proof.Machine

/-- One step: one atomic step of one agent (00_scope.md R4). -/
def step (s : State) : Host.Outcome State Fault Refusal := nextMove s

/-- The state with the command word `w` of `nbits` bits in the receive window, where `Drain` takes its next command
(log 19). -/
def State.withFetchWord (s : State) (nbits w : Nat) : State :=
  stateAboutToDrain s (BitVec.ofNat 24 (w % 2 ^ nbits))

end Sys2Proof.Machine
end

