-- ==== Sys2Proof/Safety.lean ====
section
/-! DEFINITION. The terms claims use: the invariant of the machine, the points where a run may be cut
(70_reset_and_hazards.md R187), what stops a run, and runs as sequences of steps. -/

namespace Sys2Proof.Machine

/-- Every byte write of a queue is to an address below `size`. -/
abbrev writesWithin (size : Nat) (q : List ByteWrite) : Prop := ∀ w ∈ q, w.addr < size

/-- A generation cycle in progress writes only active pixels (41_generator.md R100, R119). -/
abbrev State.queueWithin (s : State) : Prop :=
  match s.ms with
  | .drain => True
  | .gen q => writesWithin (3 * s.cfg.pixelCount.toNat) q

/-- The serializer's position is one its machine can be in (42_serializer.md R138): in SHIFT a pixel below the captured
count, which is at most the capacity, with no unit of the latch counted yet; in LATCH a unit below `T_LATCH_UNITS`. -/
abbrev State.serializerLegal (s : State) : Prop :=
  match s.ser.state with
  | .idle => True
  | .shift =>
    s.ser.pix.toNat < s.ser.count.toNat ∧ s.ser.count.toNat ≤ s.params.capacity ∧ s.ser.latch = 0
  | .latch => s.ser.latch < s.params.tLatchUnits

/-- The invariant of the machine: legal parameters, a frame buffer in canonical form and of its size, a queue that
writes active pixels only, a legal serializer position, and the data line at the level that position gives (R138, R139). -/
structure State.Inv (s : State) : Prop where
  params : s.params.wf
  memory : Memory.wf s.fbSize s.fb = true
  queue : s.queueWithin
  serializer : s.serializerLegal
  level : lineLevel s = some s.dout

/-- Whether a byte is still to be delivered. -/
def Event.isByte : Event → Bool
  | .run => false
  | .byte _ => true
  | .tick => false
  | .rst => false

/-- A quiescent state (70_reset_and_hazards.md R187): no byte to deliver, no undrained command, no cycle half done, the
serializer idle. That no model fault has been raised is that there is a state at all. -/
def State.quiescent (s : State) : Bool :=
  !(s.agenda.any Event.isByte) && !(recognised s.rxwin) && decide (s.ms = .drain) && !s.busy

/-- The tick that the schedule puts next. -/
def State.tickNext (s : State) : Bool := decide (s.agenda.head? = some .tick)

/-- The state the thread of control would move in next, if the next move is the thread's: the schedule names it, names
nothing, or offers a byte that is not accepted. -/
def State.threadNext (s : State) : Bool :=
  match s.agenda with
  | [] => true
  | .run :: _ => true
  | .byte _ :: _ => !s.rxReady
  | .tick :: _ => false
  | .rst :: _ => false

/-- The state as the thread of control sees it when the next move is the thread's: a `run` is used up, a byte that is
not accepted stays. -/
def State.threadSees (s : State) : State :=
  match s.agenda with
  | [] => s
  | .run :: rest => s.setAgenda rest
  | .byte _ :: _ => s
  | .tick :: _ => s
  | .rst :: _ => s

/-- `n` steps, stopping at the first fault or refusal. -/
def runSteps : Nat → State → StepResult
  | 0, s => .next s
  | n + 1, s => andThen (step s) (runSteps n)

/-- The level of the data line in the state `s` and in each of the `n - 1` states after it, one per step; shorter if the
run stops. -/
def levels : Nat → State → List Bool
  | 0, _ => []
  | n + 1, s =>
    s.dout :: match step s with
      | .next t => levels n t
      | .fault _ => []
      | .refused _ => []

/-- The frame buffer after a list of byte writes. -/
def performWrites (m : Memory) : List ByteWrite → Memory
  | [] => m
  | w :: rest => performWrites (Memory.put m w.addr w.val) rest

/-- The block is about to run one main-loop iteration undisturbed and without a command: it holds the invariant, nothing
is scheduled, the serializer is idle, the sequencer is at `DRAIN`, no command is in the window, and the count is within the
capacity. -/
structure State.freeIteration (s : State) : Prop where
  inv : s.Inv
  agenda : s.agenda = []
  idle : s.ser.state = .idle
  atDrain : s.ms = .drain
  noCommand : recognised s.rxwin = false
  fits : s.cfg.pixelCount.toNat ≤ s.params.capacity

/-- One undisturbed main-loop iteration from `s` (the `Drain`, three byte writes for each of `k` pixels, the phase
advance) ends at `DRAIN` with the first `k` pixels of the frame buffer at the colours given, every byte above them as
before, the phase advanced by `speed`, and every other piece of state but the index of the free values as before. -/
def State.paints (s : State) (k : Nat) (colour : Nat → Pixel) : Prop :=
  ∃ t, runSteps (3 * k + 2) s = .next t ∧
    (∀ i, i < k → pixelAt t.fb i = colour i) ∧
    (∀ a, 3 * k ≤ a → Memory.get t.fb a = Memory.get s.fb a) ∧
    t.time = s.time + s.cfg.speed ∧
    t.ms = .drain ∧ t.cfg = s.cfg ∧ t.rxwin = s.rxwin ∧ t.ser = s.ser ∧ t.dout = s.dout ∧
    t.line = s.line ∧ t.echo = s.echo ∧ t.agenda = s.agenda ∧ t.params = s.params

/-- The block is about to take a tick and then to be left alone until the frame is sent: it holds the invariant, the
schedule is one tick, the serializer is idle, and the count is within the capacity. -/
structure State.aboutToSend (s : State) : Prop where
  inv : s.Inv
  agenda : s.agenda = [.tick]
  idle : s.ser.state = .idle
  fits : s.cfg.pixelCount.toNat ≤ s.params.capacity

/-- The units a frame of the current count lasts: `72 * n + T_LATCH_UNITS` (42_serializer.md R137). -/
def State.frameUnits (s : State) : Nat := 72 * s.cfg.pixelCount.toNat + s.params.tLatchUnits

end Sys2Proof.Machine
end

