-- ==== Sys2Proof/Certificates/Slice0/Obligations.lean ====
section
/-! DEFINITION. The statements for the provers. -/

open Sys2Proof Sys2Proof.Machine

/-! ## Encoding and the window -/

/-- A few words written out from the table of 30_encoding.md R65, one per family and one reserved opcode. -/
def Obligations.WrittenWordsDecode : Prop :=
  decodeWindow 0x0132FF#24 = .ok (.enable 0x32#8) ∧
  decodeWindow 0x0232FF#24 = .ok (.bright 0x32#8) ∧
  decodeWindow 0x07FFFF#24 = .ok (.spdh 0xFF#8) ∧
  decodeWindow 0x0B80FF#24 = .ok (.regl 0x80#8) ∧
  decodeWindow 0x0900FF#24 = .ok (.reset 0x00#8) ∧
  decodeWindow 0x0C05FF#24 = .error (.reservedOpcode 0x0C#8 0x05#8)

/-- Every command decodes from its own encoding with every parameter: as a window, as bytes in front of any other bytes,
and as three bytes shifted into any window (30_encoding.md R60, R61, R63, R65). -/
def Obligations.EveryCommandDecodesAsItself : Prop :=
  ∀ i : Instr,
    decodeWindow (encode i) = .ok i ∧
    (∀ rest, decodeBytes (encodeBytes i ++ rest) = .ok (i, rest)) ∧
    (∀ w : Window, decodeWindow ((encodeBytes i).foldl Window.shiftIn w) = .ok i) ∧
    decodeTableWord 24 (encode i).toNat = some i

/-- Each word has one meaning: a window decodes to a command exactly when it is that command's encoding. -/
def Obligations.DecodedWordIsItsEncoding : Prop :=
  ∀ (w : Window) (i : Instr), decodeWindow w = .ok i ↔ w = encode i

/-- The words that are no command, by name: the newest byte is not the sync byte; the opcode byte is 0; the opcode is 0x0C
to 0xFF, and then the reject carries it and its parameter (30_encoding.md R66). -/
def Obligations.RejectsAreNamedByTheirCause : Prop :=
  ∀ w : Window,
    (decodeWindow w = .error .notSync ↔ w.extractLsb' 0 8 ≠ 0xFF#8) ∧
    (decodeWindow w = .error .opcodeZero ↔ w.extractLsb' 0 8 = 0xFF#8 ∧ w.extractLsb' 16 8 = 0#8) ∧
    (∀ op par, decodeWindow w = .error (.reservedOpcode op par) ↔
      w.extractLsb' 0 8 = 0xFF#8 ∧ w.extractLsb' 16 8 = op ∧ w.extractLsb' 8 8 = par ∧ 0x0C ≤ op.toNat) ∧
    decodeWindow w ≠ .error .tooShort

/-- 30_encoding.md R62: a window is recognised exactly when it is above 0xFFFF, which is the same as `w[23:16] != 0`, and
its least significant byte is 0xFF; nothing else is checked. So `op, 0xFF` on a clean window is not recognised, and a command
whose parameter is 0 is. -/
def Obligations.RecognitionPredicate : Prop :=
  (∀ w : Window, recognised w = true ↔ 0xFFFF < w.toNat ∧ w.extractLsb' 0 8 = 0xFF#8) ∧
  (∀ w : Window, 0xFFFF < w.toNat ↔ w.extractLsb' 16 8 ≠ 0#8) ∧
  (∀ op : Byte, recognised (Window.ofBytes 0#8 op 0xFF#8) = false) ∧
  (∀ op : Byte, op ≠ 0#8 → recognised (Window.ofBytes op 0x00#8 0xFF#8) = true)

/-- 30_encoding.md R61: a byte offered is shifted in when `rx_ready` is high, that is, unless `RX_BACKPRESSURE` is true and
the window is recognised; the window becomes `((rxwin << 8) | b)[23:0] = {rxwin[15:0], b}`, the oldest byte is discarded, and
nothing else changes (the schedule, the model's own, loses the byte). -/
def Obligations.ByteShiftsIntoTheWindow : Prop :=
  ∀ (s : State) (b : Byte) (rest : List Event), s.agenda = .byte b :: rest →
    ¬ (s.params.rxBackpressure = true ∧ recognised s.rxwin = true) →
    ∃ w : Window, step s = .next ((s.setRxwin w).setAgenda rest) ∧
      w.toNat = (s.rxwin.toNat * 256 + b.toNat) % 2 ^ 24 ∧ w = s.rxwin.extractLsb' 0 16 ++ b

/-- With `RX_BACKPRESSURE`, a byte offered while an undrained command sits in the window is not shifted in and not lost: it
stays at the head of the schedule (the model's own convention, log 16), the window is as it was or emptied by the `Drain`, and if
the sequencer is at `DRAIN` with the serializer idle, that very step empties it and `rx_ready` is high again (30_encoding.md
R61, 70_reset_and_hazards.md R180, R188). -/
def Obligations.ByteIsHeldUntilTheDrain : Prop :=
  ∀ (s : State) (b : Byte) (rest : List Event), s.agenda = .byte b :: rest →
    s.params.rxBackpressure = true → recognised s.rxwin = true →
    (∀ t, step s = .next t → t.agenda = .byte b :: rest ∧ (t.rxwin = s.rxwin ∨ t.rxwin = 0#24)) ∧
    (s.ser.state = .idle → s.ms = .drain → ∃ t, step s = .next t ∧ t.rxwin = 0#24 ∧ t.rxReady = true)

/-- 30_encoding.md R68 case 1: on a clean window, `op, par, 0xFF` with `op != 0` is recognised at its third byte and at
neither of the first two, as the command `(op, par)`. -/
def Obligations.CleanCommandIsRecognisedOnce : Prop :=
  ∀ op par : Byte, op ≠ 0#8 →
    let w1 := Window.shiftIn 0#24 op
    let w2 := w1.shiftIn par
    let w3 := w2.shiftIn 0xFF#8
    recognised w1 = false ∧ recognised w2 = false ∧ recognised w3 = true ∧ w3.oldest = op ∧ w3.middle = par

/-- 30_encoding.md R68 case 2: a truncated command `op, par` and then `op2, par2, 0xFF`, with the side conditions of the
case, is recognised at the fifth byte alone, as `(op2, par2)`. -/
def Obligations.TruncatedCommandResynchronises : Prop :=
  ∀ op par op2 par2 : Byte, op2 ≠ 0#8 → op2 ≠ 0xFF#8 → par2 ≠ 0xFF#8 →
    let w1 := Window.shiftIn 0#24 op
    let w2 := w1.shiftIn par
    let w3 := w2.shiftIn op2
    let w4 := w3.shiftIn par2
    let w5 := w4.shiftIn 0xFF#8
    recognised w1 = false ∧ recognised w2 = false ∧ recognised w3 = false ∧ recognised w4 = false ∧
      recognised w5 = true ∧ w5.oldest = op2 ∧ w5.middle = par2

/-- 30_encoding.md R68 case 3 and R67: the corners where a merge is decoded. With `par2 = 0xFF` and `par != 0` the fourth
window is the command `(par, op2)`; with `op2 = 0xFF` and `op != 0` the third is `(op, par)`; and from any window, a stray
byte `x != 0` directly before `op, 0xFF` gives the command `(x, op)`. -/
def Obligations.MergedCommandCorners : Prop :=
  (∀ op par op2 : Byte, par ≠ 0#8 →
    let w4 := (((Window.shiftIn 0#24 op).shiftIn par).shiftIn op2).shiftIn 0xFF#8
    recognised w4 = true ∧ w4.oldest = par ∧ w4.middle = op2) ∧
  (∀ op par : Byte, op ≠ 0#8 →
    let w3 := ((Window.shiftIn 0#24 op).shiftIn par).shiftIn 0xFF#8
    recognised w3 = true ∧ w3.oldest = op ∧ w3.middle = par) ∧
  (∀ (w : Window) (x op : Byte), x ≠ 0#8 →
    let w3 := ((w.shiftIn x).shiftIn op).shiftIn 0xFF#8
    recognised w3 = true ∧ w3.oldest = x ∧ w3.middle = op)

/-- 70_reset_and_hazards.md R181: after two zero bytes on any window, the next `op, par, 0xFF` with `op != 0` is decoded as
itself and at its third byte only, even when `par = 0xFF`. -/
def Obligations.TwoZeroBytesFlushTheWindow : Prop :=
  ∀ (w : Window) (op par : Byte), op ≠ 0#8 →
    let z1 := w.shiftIn 0#8
    let z2 := z1.shiftIn 0#8
    let w1 := z2.shiftIn op
    let w2 := w1.shiftIn par
    let w3 := w2.shiftIn 0xFF#8
    recognised z1 = false ∧ recognised z2 = false ∧
      recognised w1 = false ∧ recognised w2 = false ∧
      recognised w3 = true ∧ w3.oldest = op ∧ w3.middle = par

/-! ## The Drain -/

/-- A step runs the decoded command: when the next move is the thread's, the serializer is idle, the sequencer is at `DRAIN`
and the window decodes to `i`, the step is `exec i` at the state with the window cleared and the pair echoed, and then, unless
`i` is RESET, the start of a generation cycle (40_commands.md R80). What the schedule loses to the step is the model's own
(`threadSees`, log 1); that a `Drain` with `pixelCount > CAPACITY` starts its cycle, and does not fault, is its reading (log 11). -/
def Obligations.StepRunsTheDecodedCommand : Prop :=
  ∀ (s : State) (i : Instr), s.threadNext = true → s.ser.state = .idle → s.ms = .drain →
    decodeWindow s.rxwin = .ok i →
    step s = andThen
      (exec i (emitEcho s.rxwin.oldest s.rxwin.middle (s.threadSees.setRxwin 0#24)))
      (fun t => .next (if ∃ par, i = .reset par then t else
        (t.setMs (.gen (writes t.cfg t.time t.draws))).setDraws (t.draws + frameDraws t.cfg)))

/-- A `Drain` that finds no command changes nothing but `ms`, which becomes the writes of the cycle it starts (40_commands.md
R80); the index of the free values and the schedule are the model's own. That it completes with `pixelCount > CAPACITY` too, and leaves U6's fault to the cycle's first
step, is the model's reading (log 11). -/
def Obligations.DrainWithoutCommandStartsACycle : Prop :=
  ∀ s : State, s.threadNext = true → s.ser.state = .idle → s.ms = .drain → recognised s.rxwin = false →
    step s = .next
      ((s.threadSees.setMs (.gen (writes s.cfg s.time s.draws))).setDraws (s.draws + frameDraws s.cfg))

/-- An unknown opcode (0x0C to 0xFF) at a decode event changes no register, no frame-buffer byte, not the phase, not the
serializer and not the line; the decode event itself clears the window and echoes the pair, and the generation cycle that follows
starts as usual. That such a word runs with no effect is the model's choice (log 18): R66 and R92 give it as the spec's own
decision D17, and U7 permits a model to refuse it. That the `Drain` completes with `pixelCount > CAPACITY` too is log 11. -/
def Obligations.UnknownOpcodeHasNoEffect : Prop :=
  ∀ (s : State) (op par : Byte), s.threadNext = true → s.ser.state = .idle → s.ms = .drain →
    s.rxwin = Window.ofBytes op par 0xFF#8 → 0x0C ≤ op.toNat →
    ∃ t, step s = .next t ∧ t.cfg = s.cfg ∧ t.time = s.time ∧ t.fb = s.fb ∧ t.ser = s.ser ∧ t.dout = s.dout ∧
      t.line = s.line ∧ t.params = s.params ∧ t.rxwin = 0#24 ∧
      t.echo = (if s.params.echoEnable then s.echo ++ [op, par] else s.echo) ∧
      t.ms = .gen (writes s.cfg s.time s.draws)

/-- Every decode event, of a table command or an unknown opcode, RESET's included, appends the opcode and then the parameter to
the echo if `ECHO_ENABLE` is true, and nothing is ever sent at any other step or if it is false (30_encoding.md R69). The order,
opcode first, and the position before application, which keeps RESET's own echo, are what R69 calls "this spec's reading" (D19);
that a reset by the port keeps the echo is the model's choice (log 15). -/
def Obligations.EchoReportsEveryDecodeEvent : Prop :=
  ∀ s t : State, step s = .next t →
    t.echo = s.echo ++
      (if s.params.echoEnable = true ∧ s.threadNext = true ∧ s.ser.state = .idle ∧ s.ms = .drain ∧
          recognised s.rxwin = true
        then [s.rxwin.extractLsb' 16 8, s.rxwin.extractLsb' 8 8] else [])

/-! ## The commands -/

/-- ENABLE, BRIGHT, COLOR, DIR and COUNT complete in every state with every parameter, in its domain or not: the command's
register holds the raw parameter byte and nothing else of the state changes (40_commands.md R81, R82, R84, R85, R86, R93). -/
def Obligations.DisplayCommandsWriteTheirRegister : Prop :=
  ∀ (par : Byte) (s : State),
    exec (.enable par) s = .next (s.setCfg { s.cfg with enabled := par }) ∧
    exec (.bright par) s = .next (s.setCfg { s.cfg with brightnessPercent := par }) ∧
    exec (.color par) s = .next (s.setCfg { s.cfg with colorChannel := par }) ∧
    exec (.dir par) s = .next (s.setCfg { s.cfg with direction := par }) ∧
    exec (.count par) s = .next (s.setCfg { s.cfg with pixelCount := par })

/-- MODE completes in every state with every parameter: the mode register holds the raw byte, `time` is 0 whatever the mode
was, and nothing else changes (40_commands.md R83). -/
def Obligations.ModeCommandZeroesThePhase : Prop :=
  ∀ (par : Byte) (s : State),
    exec (.mode par) s = .next ((s.setCfg { s.cfg with mode := par }).setTime 0#16)

/-- SPDH, SPDL, REGH and REGL complete in every state with every parameter: each replaces its own byte and leaves the other
byte of the 16-bit quantity, and everything else, as it was (40_commands.md R87, R88, R90, R91, 30_encoding.md R64). -/
def Obligations.HalfCommandsWriteTheirByte : Prop :=
  ∀ (par : Byte) (s : State),
    exec (.spdh par) s = .next (s.setCfg { s.cfg with speedHigh := par }) ∧
    exec (.spdl par) s = .next (s.setCfg { s.cfg with speedLow := par }) ∧
    exec (.regh par) s =
      .next (s.setCfg { s.cfg with progressRegister := par ++ s.cfg.progressRegister.extractLsb' 0 8 }) ∧
    exec (.regl par) s =
      .next (s.setCfg { s.cfg with progressRegister := s.cfg.progressRegister.extractLsb' 8 8 ++ par })

/-- RESET completes in every state, whatever its parameter: every register, the frame buffer, the phase, the window, the
sequencer, the serializer's state and the line take their reset values (10_state.md R32), and nothing is driven or echoed
(40_commands.md R89, 70_reset_and_hazards.md R170). That the schedule, the parameters and the outputs already sent stay is the
model's own (log 15). -/
def Obligations.ResetCommandRestarts : Prop :=
  ∀ (par : Byte) (s : State), ∃ t, exec (.reset par) s = .next t ∧
    t.cfg.enabled = (if s.params.enabledReset then 1#8 else 0#8) ∧
    t.cfg.brightnessPercent.toNat = 100 ∧ t.cfg.mode = 0#8 ∧ t.cfg.colorChannel = 2#8 ∧
    t.cfg.direction = (if s.params.directionReset then 1#8 else 0#8) ∧
    t.cfg.pixelCount = BitVec.ofNat 8 s.params.capacity ∧
    t.cfg.speed = s.params.speedReset ∧ t.cfg.progressRegister = s.params.progressReset ∧
    t.time = 0#16 ∧ t.rxwin = 0#24 ∧ (∀ a, Memory.get t.fb a = 0#8) ∧ t.ms = .drain ∧
    t.ser.state = .idle ∧ t.dout = false ∧
    t.line = s.line ∧ t.echo = s.echo ∧ t.agenda = s.agenda ∧ t.params = s.params ∧
    (∀ par', exec (.reset par') s = .next t)

/-- The frame of the ten commands that write a register: every other byte of every register, every frame-buffer byte, the
window, the sequencer, the serializer, the line, the outputs, the parameters and the schedule are unchanged, and the phase is
unchanged except by MODE. -/
def Obligations.RegisterCommandsFrame : Prop :=
  ∀ (i : Instr) (s t : State) (r : CfgPort), exec i s = .next t →
    (∃ par, i = .enable par ∧ r = .enabled) ∨ (∃ par, i = .bright par ∧ r = .brightness) ∨
    (∃ par, i = .mode par ∧ r = .mode) ∨ (∃ par, i = .color par ∧ r = .color) ∨
    (∃ par, i = .dir par ∧ r = .direction) ∨ (∃ par, i = .count par ∧ r = .count) ∨
    (∃ par, i = .spdh par ∧ r = .speedHigh) ∨ (∃ par, i = .spdl par ∧ r = .speedLow) ∨
    (∃ par, i = .regh par ∧ r = .progressHigh) ∨ (∃ par, i = .regl par ∧ r = .progressLow) →
    t.cfg.read r = i.parameter ∧ (∀ r', r' ≠ r → t.cfg.read r' = s.cfg.read r') ∧
    (r ≠ .mode → t.time = s.time) ∧ t.rxwin = s.rxwin ∧
    (∀ a, Memory.get t.fb a = Memory.get s.fb a) ∧ t.ms = s.ms ∧ t.ser = s.ser ∧ t.dout = s.dout ∧
    t.line = s.line ∧ t.echo = s.echo ∧ t.params = s.params ∧ t.agenda = s.agenda

/-- 10_state.md R20 and 70_reset_and_hazards.md R177: `speed` is `speedHigh * 256 + speedLow`; after SPDH alone it is the new
high byte with the old low byte, and SPDH and SPDL in either order assemble the whole step. -/
def Obligations.SpeedIsAssembledFromTwoCommands : Prop :=
  ∀ (h l : Byte) (s : State),
    s.cfg.speed.toNat = s.cfg.speedHigh.toNat * 256 + s.cfg.speedLow.toNat ∧
    (∃ t, exec (.spdh h) s = .next t ∧ t.cfg.speed.toNat = h.toNat * 256 + s.cfg.speedLow.toNat) ∧
    (∃ t, andThen (exec (.spdh h) s) (exec (.spdl l)) = .next t ∧ t.cfg.speed.toNat = h.toNat * 256 + l.toNat) ∧
    (∃ t, andThen (exec (.spdl l) s) (exec (.spdh h)) = .next t ∧ t.cfg.speed.toNat = h.toNat * 256 + l.toNat)

/-- A `Drain` always completes: with any window, so with any command, its parameter in its domain or not, and with any opcode
outside the table (40_commands.md R80 "`apply` never fails", R93). That it completes with `pixelCount > CAPACITY` too, so that
U6's fault is raised by the steps of the cycle it starts and not by the `Drain`, is the model's reading (log 11). -/
def Obligations.DrainAlwaysCompletes : Prop :=
  ∀ s : State, s.threadNext = true → s.ser.state = .idle → s.ms = .drain → ∃ t, step s = .next t

/-! ## The generator's functions -/

/-- 41_generator.md R102: `scale(v, b) = (v * b) div 100`, truncating, in 0 to 255 and never wrapping; identity at 100, zero
at 0 and for 0, monotone in the brightness; `scale(255, 50) = 127`. -/
def Obligations.ScaleIsTruncatedPercentage : Prop :=
  (∀ v b : Byte, b.toNat ≤ 100 → (scale v b).toNat = v.toNat * b.toNat / 100) ∧
  (∀ v : Byte, scale v 100#8 = v) ∧ (∀ v : Byte, scale v 0#8 = 0#8) ∧ (∀ b : Byte, scale 0#8 b = 0#8) ∧
  (∀ v b1 b2 : Byte, b1.toNat ≤ b2.toNat → b2.toNat ≤ 100 → (scale v b1).toNat ≤ (scale v b2).toNat) ∧
  scale 1#8 99#8 = 0#8 ∧ scale 255#8 99#8 = 252#8 ∧ scale 255#8 50#8 = 127#8

/-- The last active pixel has phase `t`, and each pixel differs from its neighbour by the step, more in Forward and less in
Reverse, modulo 2^16 (41_generator.md R104). The Reverse formula is what R104 calls "this spec's reading of "direction-appropriate
step"" (D6). -/
def Obligations.PhasesAreAnchoredAtTheLastPixel : Prop :=
  ∀ (t step : Word16) (n i : Nat), i < n →
    (∀ d, phase t (phaseStep step d) n (n - 1) = t) ∧
    (i + 1 < n → phase t (phaseStep step .forward) n i = phase t (phaseStep step .forward) n (i + 1) + step) ∧
    (i + 1 < n → phase t (phaseStep step .reverse) n i = phase t (phaseStep step .reverse) n (i + 1) - step) ∧
    (phase t (phaseStep step .forward) n i).toNat = (t.toNat + (n - 1 - i) * step.toNat) % 65536

/-- 41_generator.md R106: with `p = phi >> 8`, pulse is `p * 2` below 0x80 and `255 - (p - 0x80) * 2` from there, exactly (no
intermediate leaves 8 bits); it tops out at 254 in the rising half and bottoms out at 1 in the falling half. -/
def Obligations.PulseIsTheTriangle : Prop :=
  (∀ phi : Word16, phi.toNat < 0x8000 →
    (pulse phi).toNat = phi.toNat / 256 * 2 ∧ (pulse phi).toNat ≤ 254) ∧
  (∀ phi : Word16, 0x8000 ≤ phi.toNat →
    (pulse phi).toNat + (phi.toNat / 256 - 0x80) * 2 = 255 ∧ 1 ≤ (pulse phi).toNat) ∧
  pulse 0x0000#16 = 0#8 ∧ pulse 0x7FFF#16 = 254#8 ∧ pulse 0x8000#16 = 255#8 ∧ pulse 0xFFFF#16 = 1#8

/-- 41_generator.md R110: mpulse is 0 below 0x8000, `(p - 0x80) * 4` up to 0xC000, `255 - (p - 0xC0) * 4` from there, exactly;
it tops out at 252 in the rising quarter and bottoms out at 3 in the falling one. -/
def Obligations.MovingPulseIsTheWindow : Prop :=
  (∀ phi : Word16, phi.toNat < 0x8000 → mpulse phi = 0#8) ∧
  (∀ phi : Word16, 0x8000 ≤ phi.toNat → phi.toNat < 0xC000 →
    (mpulse phi).toNat = (phi.toNat / 256 - 0x80) * 4 ∧ (mpulse phi).toNat ≤ 252) ∧
  (∀ phi : Word16, 0xC000 ≤ phi.toNat →
    (mpulse phi).toNat + (phi.toNat / 256 - 0xC0) * 4 = 255 ∧ 3 ≤ (mpulse phi).toNat) ∧
  mpulse 0x7FFF#16 = 0#8 ∧ mpulse 0x8000#16 = 0#8 ∧ mpulse 0xBF00#16 = 252#8 ∧ mpulse 0xC000#16 = 255#8 ∧
  mpulse 0xFFFF#16 = 3#8

/-- Every rainbow colour holds at least one channel at 255 and at least one at 0; in each of the six segments of 10752 phase
counts the channel named ramps by one for every 42 counts, up or down; and from 0xFC00 the colour stays at (255, 0, 0)
(41_generator.md R108). The ramp laws `x` and `255 - x` are what R108 calls "this spec's reading" (D11): "the ramp laws `x` for
"up" and `255 - x` for "down" are the linear ramps that make adjacent segments meet". -/
def Obligations.RainbowRotatesTheHue : Prop :=
  (∀ phi : Word16, ((rainbow phi).r = 255#8 ∨ (rainbow phi).g = 255#8 ∨ (rainbow phi).b = 255#8) ∧
    ((rainbow phi).r = 0#8 ∨ (rainbow phi).g = 0#8 ∨ (rainbow phi).b = 0#8)) ∧
  (∀ (k x : Nat) (phi : Word16), x < 256 → phi.toNat / 42 = k * 256 + x →
    (k = 0 → rainbow phi = ⟨255#8, BitVec.ofNat 8 x, 0#8⟩) ∧
    (k = 1 → rainbow phi = ⟨BitVec.ofNat 8 (255 - x), 255#8, 0#8⟩) ∧
    (k = 2 → rainbow phi = ⟨0#8, 255#8, BitVec.ofNat 8 x⟩) ∧
    (k = 3 → rainbow phi = ⟨0#8, BitVec.ofNat 8 (255 - x), 255#8⟩) ∧
    (k = 4 → rainbow phi = ⟨BitVec.ofNat 8 x, 0#8, 255#8⟩) ∧
    (k = 5 → rainbow phi = ⟨255#8, 0#8, BitVec.ofNat 8 (255 - x)⟩)) ∧
  (∀ phi : Word16, 0xFC00 ≤ phi.toNat → rainbow phi = ⟨255#8, 0#8, 0#8⟩)

/-! ## The generation cycle -/

/-- The byte writes of a cycle are to active pixels only, in strictly ascending address order, and come in whole pixels, R, G,
B: with any register values, in their domains or not (41_generator.md R115, R119 "Pixels at or above `n` are not written in any
case", R103 "all three bytes of a written pixel are written"). That the order inside a pixel is R, G, B is the model's choice
(log 21): R115 calls it "this spec's choice" (D13), and U12 permits every order. That the order is kept and pixels are written
whole with `mode >= 5` is the model's choice (log 10). -/
def Obligations.CycleWritesAscendThroughActivePixels : Prop :=
  ∀ (c : Cfg) (t : Word16) (k : Nat),
    (∀ w ∈ writes c t k, w.addr < 3 * c.pixelCount.toNat) ∧
    ((writes c t k).map ByteWrite.addr).Pairwise (· < ·) ∧
    ∃ pixels : List Nat,
      (writes c t k).map ByteWrite.addr = pixels.flatMap (fun i => [3 * i, 3 * i + 1, 3 * i + 2])

/-- A register outside its domain that the mode reads changes only the bytes of the cycle, not which pixels it writes; this holds
for every value of the free bytes. That the pixels are the same is the model's choice (log 9), which reads U2, U4 and U5 of
93_implementation_defined.md ("every byte the generator writes") so; 41_generator.md R119 alone could be read as all of
`[0, n)`. -/
def Obligations.OutOfDomainColoursPaintTheSamePixels : Prop :=
  ∀ (c : Cfg) (t : Word16) (k : Nat), c.mode.toNat ≤ 4 →
    (writes c t k).map ByteWrite.addr =
      (writes { c with brightnessPercent := 100#8, colorChannel := 0#8, direction := 0#8 } t k).map ByteWrite.addr

/-- 41_generator.md R115, R44: a `GenStep` with a write at the head of the queue performs that one byte write and keeps the
rest of the queue; every other frame-buffer byte and every other piece of state is unchanged. -/
def Obligations.GenStepWritesOneByte : Prop :=
  ∀ (s : State) (w : ByteWrite) (q : List ByteWrite), s.Inv → s.threadNext = true → s.ser.state = .idle →
    s.ms = .gen (w :: q) → s.cfg.pixelCount.toNat ≤ s.params.capacity →
    ∃ t, step s = .next t ∧ Memory.get t.fb w.addr = w.val ∧
      (∀ a, a ≠ w.addr → Memory.get t.fb a = Memory.get s.fb a) ∧ t.ms = .gen q ∧
      t.cfg = s.cfg ∧ t.time = s.time ∧ t.rxwin = s.rxwin ∧ t.ser = s.ser ∧ t.dout = s.dout ∧
      t.line = s.line ∧ t.echo = s.echo ∧ t.params = s.params ∧ t.draws = s.draws

/-- 41_generator.md R114: the last step of every cycle, in every mode, adds `speed = {speedHigh, speedLow}` to `time` modulo
2^16 and goes to `DRAIN`; nothing else changes. -/
def Obligations.PhaseAdvancesAtTheEndOfTheCycle : Prop :=
  ∀ s : State, s.threadNext = true → s.ser.state = .idle → s.ms = .gen [] →
    s.cfg.pixelCount.toNat ≤ s.params.capacity →
    ∃ t : Word16, step s = .next ((s.threadSees.setTime t).setMs .drain) ∧
      t.toNat = (s.time.toNat + (s.cfg.speedHigh.toNat * 256 + s.cfg.speedLow.toNat)) % 65536

/-- A generation cycle in progress, left undisturbed, ends after one step for each byte write left and one for the phase
advance: the writes are performed in their order, the phase advances, and nothing else changes (41_generator.md R100, R115,
70_reset_and_hazards.md R188). -/
def Obligations.CycleRunsToItsEnd : Prop :=
  ∀ (s : State) (q : List ByteWrite), s.Inv → s.agenda = [] → s.ser.state = .idle → s.ms = .gen q →
    s.cfg.pixelCount.toNat ≤ s.params.capacity →
    runSteps (q.length + 1) s =
      .next (((s.setFb (performWrites s.fb q)).setTime (s.time + s.cfg.speed)).setMs .drain)

/-- Solid, 41_generator.md R105 with R102 and R103: one undisturbed iteration paints every active pixel with the scaled full
intensity on the selected channel, 0 Red, 1 Blue, 2 Green, and zero on the others; the bytes above them stay; `time` still
advances. -/
def Obligations.SolidCyclePaintsTheSelectedChannel : Prop :=
  ∀ s : State, s.freeIteration → s.cfg.mode = 0#8 → s.cfg.brightnessPercent.toNat ≤ 100 →
    let v := BitVec.ofNat 8 (255 * s.cfg.brightnessPercent.toNat / 100)
    (s.cfg.colorChannel = 0#8 → s.paints s.cfg.pixelCount.toNat (fun _ => ⟨v, 0#8, 0#8⟩)) ∧
    (s.cfg.colorChannel = 1#8 → s.paints s.cfg.pixelCount.toNat (fun _ => ⟨0#8, 0#8, v⟩)) ∧
    (s.cfg.colorChannel = 2#8 → s.paints s.cfg.pixelCount.toNat (fun _ => ⟨0#8, v, 0#8⟩))

/-- Pulse, 41_generator.md R107: one undisturbed iteration paints every active pixel with `scale(pulse(time), b)` on the
selected channel. -/
def Obligations.PulseCyclePaintsTheSharedPhase : Prop :=
  ∀ s : State, s.freeIteration → s.cfg.mode = 1#8 → s.cfg.brightnessPercent.toNat ≤ 100 →
    let v := scale (pulse s.time) s.cfg.brightnessPercent
    (s.cfg.colorChannel = 0#8 → s.paints s.cfg.pixelCount.toNat (fun _ => ⟨v, 0#8, 0#8⟩)) ∧
    (s.cfg.colorChannel = 1#8 → s.paints s.cfg.pixelCount.toNat (fun _ => ⟨0#8, 0#8, v⟩)) ∧
    (s.cfg.colorChannel = 2#8 → s.paints s.cfg.pixelCount.toNat (fun _ => ⟨0#8, v, 0#8⟩))

/-- Rainbow, 41_generator.md R109 with R104: one undisturbed iteration paints pixel `i` with the hue of the phase
`time + (n - 1 - i) * s`, `s` being 0x0400 in Forward and 0xFC00 in Reverse, each channel scaled; the colour channel register is
not read (it may hold any value). The Reverse formula is what R104 calls "this spec's reading of "direction-appropriate step""
(D6). -/
def Obligations.RainbowCyclePaintsTheHueSweep : Prop :=
  ∀ s : State, s.freeIteration → s.cfg.mode = 2#8 → s.cfg.brightnessPercent.toNat ≤ 100 →
    let n := s.cfg.pixelCount.toNat
    let b := s.cfg.brightnessPercent
    let colour := fun (d : Word16) (i : Nat) =>
      let c := rainbow (s.time + BitVec.ofNat 16 (n - 1 - i) * d)
      (⟨scale c.r b, scale c.g b, scale c.b b⟩ : Pixel)
    (s.cfg.direction = 0#8 → s.paints n (colour 0x0400#16)) ∧
    (s.cfg.direction = 1#8 → s.paints n (colour 0xFC00#16))

/-- MovingPulse, 41_generator.md R111 with R104: one undisturbed iteration paints pixel `i` with
`scale(mpulse(time + (n - 1 - i) * s), b)` on the selected channel, `s` being 0x0800 in Forward and 0xF800 in Reverse. The Reverse
formula is what R104 calls "this spec's reading of "direction-appropriate step"" (D6). -/
def Obligations.MovingPulseCyclePaintsTheWindow : Prop :=
  ∀ s : State, s.freeIteration → s.cfg.mode = 3#8 → s.cfg.brightnessPercent.toNat ≤ 100 →
    ∀ d : Word16, (s.cfg.direction = 0#8 ∧ d = 0x0800#16) ∨ (s.cfg.direction = 1#8 ∧ d = 0xF800#16) →
    let n := s.cfg.pixelCount.toNat
    let v := fun i : Nat =>
      scale (mpulse (s.time + BitVec.ofNat 16 (n - 1 - i) * d)) s.cfg.brightnessPercent
    (s.cfg.colorChannel = 0#8 → s.paints n (fun i => ⟨v i, 0#8, 0#8⟩)) ∧
    (s.cfg.colorChannel = 1#8 → s.paints n (fun i => ⟨0#8, 0#8, v i⟩)) ∧
    (s.cfg.colorChannel = 2#8 → s.paints n (fun i => ⟨0#8, v i, 0#8⟩))

/-- ProgressBar, 41_generator.md R112, for `divisor != 0`: with `full = n div divisor`, one undisturbed iteration paints the
pixels below `full` with the scaled full intensity and, if `full < n`, the pixel at `full` with the scaled `frac`; the pixels
beyond keep what they held. -/
def Obligations.ProgressBarPaintsUpToTheBar : Prop :=
  ∀ s : State, s.freeIteration → s.cfg.mode = 4#8 → s.cfg.brightnessPercent.toNat ≤ 100 →
    s.cfg.progressRegister.extractLsb' 8 8 ≠ 0#8 →
    let n := s.cfg.pixelCount.toNat
    let full := n / (s.cfg.progressRegister.extractLsb' 8 8).toNat
    let v := fun i : Nat =>
      scale (if i < full then 255#8 else s.cfg.progressRegister.extractLsb' 0 8) s.cfg.brightnessPercent
    let painted := if full < n then full + 1 else n
    (s.cfg.colorChannel = 0#8 → s.paints painted (fun i => ⟨v i, 0#8, 0#8⟩)) ∧
    (s.cfg.colorChannel = 1#8 → s.paints painted (fun i => ⟨0#8, 0#8, v i⟩)) ∧
    (s.cfg.colorChannel = 2#8 → s.paints painted (fun i => ⟨0#8, v i, 0#8⟩))

/-- ProgressBar with `divisor = 0` writes no pixel, whatever the brightness and the colour, and `time` still advances
(41_generator.md R113). That it writes none with a brightness or a colour outside its domain too is the model's choice (log 9). -/
def Obligations.ProgressBarWithDivisorZeroWritesNothing : Prop :=
  ∀ s : State, s.freeIteration → s.cfg.mode = 4#8 → s.cfg.progressRegister.extractLsb' 8 8 = 0#8 →
    s.paints 0 (fun _ => Pixel.black)

/-- The generator runs whether or not the display is enabled (41_generator.md R118): a step of the main sequencer without a
command does the same with any value in `cfg.enabled`. -/
def Obligations.EnableDoesNotGateTheGenerator : Prop :=
  ∀ (s : State) (v : Byte), s.threadNext = true → s.ser.state = .idle → recognised s.rxwin = false →
    step (s.setCfg { s.cfg with enabled := v }) =
      andThen (step s) (fun t => .next (t.setCfg { t.cfg with enabled := v }))

/-- The generator never reads the frame buffer (20_memory.md R47): what a `Drain` does to everything but the frame buffer does
not depend on it. -/
def Obligations.DrainDoesNotReadTheFrameBuffer : Prop :=
  ∀ (s t : State) (m : Memory), s.threadNext = true → s.ser.state = .idle → s.ms = .drain → step s = .next t →
    ∃ u, step (s.setFb m) = .next u ∧ u.setFb t.fb = t

/-! ## The tick and the serializer -/

/-- Tick entry (42_serializer.md R131, R138, 60_exceptions.md R152): an accepted tick captures `enabled` and `pixelCount`,
starts the serializer at the first unit (or at the latch for no pixel), and changes no register, no frame-buffer byte, not the
phase, not the window, not `ms` and no output. For `enabled >= 2` the captured enable is either value (U1). That `line` does not
grow yet, where R130 as one atomic step appends the frame at the tick, and that `dout` is already at the first unit's level in the
next state, are the model's choice (log 13). -/
def Obligations.TickCapturesAndStarts : Prop :=
  ∀ (s : State) (rest : List Event), s.agenda = .tick :: rest → s.ser.state = .idle →
    s.cfg.pixelCount.toNat ≤ s.params.capacity →
    ∃ t, step s = .next t ∧
      t.ser.count = s.cfg.pixelCount ∧ (s.cfg.enabled = 0#8 → t.ser.en = false) ∧
      (s.cfg.enabled = 1#8 → t.ser.en = true) ∧
      t.ser.pix = 0#8 ∧ t.ser.byte = 0 ∧ t.ser.bit = 7 ∧ t.ser.unit = 0 ∧ t.ser.latch = 0 ∧
      (t.ser.state = if s.cfg.pixelCount = 0#8 then .latch else .shift) ∧
      (t.dout = decide (s.cfg.pixelCount ≠ 0#8)) ∧
      t.cfg = s.cfg ∧ t.time = s.time ∧ t.rxwin = s.rxwin ∧ t.fb = s.fb ∧ t.ms = s.ms ∧
      t.line = s.line ∧ t.echo = s.echo ∧ t.params = s.params ∧ t.agenda = rest

/-- 42_serializer.md R141: a tick while the serializer is busy is the model fault TickOverrun, the spec's treatment of an undefined
case (D22, U8); that the count is not looked at first is the model's (log 12). -/
def Obligations.TickWhileBusyIsOverrun : Prop :=
  ∀ (s : State) (rest : List Event), s.agenda = .tick :: rest → s.ser.state ≠ .idle →
    step s = .fault .tickOverrun

/-- 20_memory.md R46, 41_generator.md R119, 42_serializer.md R145: a step of a generation cycle, or a tick with the serializer
idle, while `pixelCount > CAPACITY` is the model fault PixelCountOverCapacity. That it is these steps that raise it, and not the
`Drain` before them, is the model's reading (log 11). -/
def Obligations.CountOverCapacityFaults : Prop :=
  ∀ s : State, s.ser.state = .idle → s.params.capacity < s.cfg.pixelCount.toNat →
    (∀ q, s.threadNext = true → s.ms = .gen q → step s = .fault .pixelCountOverCapacity) ∧
    (∀ rest, s.agenda = .tick :: rest → step s = .fault .pixelCountOverCapacity)

/-- The per-unit machine drives `frame_wave` (42_serializer.md R137, R138): from a tick that is then left alone, the data line
takes, unit by unit, exactly the levels of the frame's waveform for the pixels of the frame buffer at the tick (black ones if the
captured enable is 0), and then the serializer is idle with the line low. That the level of a unit is read in the state whose
position is that unit, the first one in the state right after the tick, is the model's choice (log 13). -/
def Obligations.TransmissionDrivesTheFrameWave : Prop :=
  ∀ s : State, s.aboutToSend → ∃ s1 t, step s = .next s1 ∧
    levels s.frameUnits s1 = frameWave s.params.tLatchUnits
      ((List.range s.cfg.pixelCount.toNat).map (fun i => if s1.ser.en then pixelAt s.fb i else ⟨0#8, 0#8, 0#8⟩)) ∧
    runSteps s.frameUnits s1 = .next t ∧ t.ser.state = .idle ∧ t.dout = false

/-- The per-unit machine refines the atomic tick (42_serializer.md R130 against R138): a tick left alone ends, after one step
and `72 * n + T_LATCH_UNITS` units, in the state the one atomic step of R130 gives, but for the serializer's position counters,
and the serializer is idle. That the per-unit machine appends the frame to `line` at the end of the latch, and not at the tick, is
the model's choice (log 13); at the end of the run the two agree. -/
def Obligations.PerUnitMachineRefinesTheAtomicTick : Prop :=
  ∀ s : State, s.aboutToSend → ∃ t u,
    runSteps (1 + s.frameUnits) s = .next t ∧ tickWhole (s.setAgenda []) = .next u ∧
    t = u.setSer t.ser ∧ t.ser.state = .idle ∧ t.dout = false

/-- A disabled frame (42_serializer.md R132): with `enabled = 0` a tick sends `24 * n` zero bits and the latch, whatever the
frame buffer holds, and leaves the frame buffer and the registers as they were. -/
def Obligations.DisabledTickSendsZeroBits : Prop :=
  ∀ s : State, s.aboutToSend → s.cfg.enabled = 0#8 → ∃ t,
    runSteps (1 + s.frameUnits) s = .next t ∧
    t.line = s.line ++ [List.replicate (24 * s.cfg.pixelCount.toNat) .b0 ++ [.latch]] ∧
    t.fb = s.fb ∧ t.cfg = s.cfg ∧ t.time = s.time ∧ t.rxwin = s.rxwin ∧ t.ms = s.ms ∧ t.echo = s.echo

/-- 42_serializer.md R133, R134: the bits of a frame are `24 * n`; bit `8 * k + m` of pixel `i` is bit `7 - m` of its G, R, B
byte for `k = 0, 1, 2`; pixels go out in ascending index. -/
def Obligations.WireOrderIsGreenRedBlueMsbFirst : Prop :=
  ∀ px : List Pixel, (framebits px).length = 24 * px.length ∧
    ∀ (i m : Nat) (p : Pixel), px[i]? = some p → m < 8 →
      (framebits px)[24 * i + m]? = some (p.g.getLsbD (7 - m)) ∧
      (framebits px)[24 * i + 8 + m]? = some (p.r.getLsbD (7 - m)) ∧
      (framebits px)[24 * i + 16 + m]? = some (p.b.getLsbD (7 - m))

/-- 42_serializer.md R137: `frame_symbols` is the bits and the latch, and `frame_wave` lasts `72 * n + T_LATCH_UNITS` units,
starts high when `n > 0` and ends with `T_LATCH_UNITS` low units; its length depends on `n` alone. It is the cells of the bits in
their order, each of three units that begins high and ends low and is high for two units exactly for a 1 bit (R135), and then the
latch, low throughout (R136). -/
def Obligations.FrameWaveIsCellsAndALatch : Prop :=
  ∀ (latchUnits : Nat) (px : List Pixel),
    (frameSymbols px).length = 24 * px.length + 1 ∧
    (frameWave latchUnits px).length = 72 * px.length + latchUnits ∧
    (px ≠ [] → (frameWave latchUnits px).head? = some true) ∧
    (frameWave latchUnits px).drop (72 * px.length) = List.replicate latchUnits false ∧
    ∀ (j : Nat) (bit : Bool), (framebits px)[j]? = some bit →
      (frameWave latchUnits px)[3 * j]? = some true ∧ (frameWave latchUnits px)[3 * j + 1]? = some bit ∧
      (frameWave latchUnits px)[3 * j + 2]? = some false

/-- The main sequencer takes no step while the serializer is busy (20_memory.md R48, 42_serializer.md R144): unless `rst` is
asserted, a step then leaves the registers, the phase, the frame buffer, `ms`, the echo and the captured count and enable as they
were, and only a byte that arrives changes the window. -/
def Obligations.MainSequencerWaitsForTheSerializer : Prop :=
  ∀ s t : State, s.ser.state ≠ .idle → step s = .next t → (∀ rest, s.agenda ≠ .rst :: rest) →
    t.cfg = s.cfg ∧ t.time = s.time ∧ t.fb = s.fb ∧ t.ms = s.ms ∧ t.echo = s.echo ∧ t.params = s.params ∧
    t.ser.count = s.ser.count ∧ t.ser.en = s.ser.en ∧
    (t.rxwin = s.rxwin ∨ ∃ b rest, s.agenda = .byte b :: rest ∧ t.rxwin = s.rxwin.extractLsb' 0 16 ++ b)

/-- 60_exceptions.md R154 a: a tick and a byte at the same instant are independent and may be taken in either order with the
same result. -/
def Obligations.TickAndByteCommute : Prop :=
  ∀ (s : State) (b : Byte) (rest : List Event), s.rxReady = true →
    runSteps 2 (s.setAgenda (.tick :: .byte b :: rest)) = runSteps 2 (s.setAgenda (.byte b :: .tick :: rest))

/-! ## The whole machine -/

/-- The state after reset, for every value of the OPEN parameters (10_state.md R32). That `time` is 0 rests on log 6 (DEDUCED):
R21 marks it as the spec's own derivation, since the source "does not state the boot value of `time` separately". -/
def Obligations.ResetStateValues : Prop :=
  ∀ p : Config.Params,
    let s := State.resetWith p
    s.cfg.enabled.toNat = p.enabledReset.toNat ∧ s.cfg.brightnessPercent.toNat = 100 ∧ s.cfg.mode.toNat = 0 ∧
    s.cfg.colorChannel.toNat = 2 ∧ s.cfg.direction.toNat = p.directionReset.toNat ∧
    (p.capacity ≤ 255 → s.cfg.pixelCount.toNat = p.capacity) ∧
    s.cfg.speedHigh ++ s.cfg.speedLow = p.speedReset ∧ s.cfg.progressRegister = p.progressReset ∧
    s.time = 0#16 ∧ s.rxwin = 0#24 ∧ (∀ a, Memory.get s.fb a = 0#8) ∧ s.ms = .drain ∧
    s.ser.state = .idle ∧ s.dout = false

/-- The invariant holds after reset, for every legal value of the parameters. -/
def Obligations.InvariantHoldsAtReset : Prop :=
  ∀ p : Config.Params, p.wf → (State.resetWith p).Inv

/-- Every step keeps the invariant: the parameters stay legal, the frame buffer stays in canonical form and of its size, a
cycle in progress writes active pixels only, the serializer's position stays legal, and the data line stays at the level that
position gives. -/
def Obligations.StepKeepsTheInvariant : Prop :=
  ∀ s t : State, s.Inv → step s = .next t → t.Inv

/-- Where a step stops (60_exceptions.md R150, 93_implementation_defined.md U6, U8): from a state that meets the invariant, a
step faults with TickOverrun exactly for a tick while the serializer is busy, and with PixelCountOverCapacity exactly for a tick
with the serializer idle or a step of a generation cycle while `pixelCount > CAPACITY`; it is never refused; and in every other
state it completes (70_reset_and_hazards.md R188). That the steps of the cycle fault and the `Drain` before them does not is the
model's reading (log 11), and that a busy tick is TickOverrun whatever the count is the model's too (log 12). -/
def Obligations.StepsStopExactlyOutsideTheContract : Prop :=
  ∀ s : State, s.Inv →
    (step s = .fault .tickOverrun ↔ s.tickNext = true ∧ s.ser.state ≠ .idle) ∧
    (step s = .fault .pixelCountOverCapacity ↔
      s.params.capacity < s.cfg.pixelCount.toNat ∧ s.ser.state = .idle ∧
        (s.tickNext = true ∨ (s.threadNext = true ∧ s.ms ≠ .drain))) ∧
    (∀ r, step s ≠ .refused r) ∧
    ((∃ t, step s = .next t) ∨ step s = .fault .tickOverrun ∨ step s = .fault .pixelCountOverCapacity)

/-- The `rst` port restarts the block at any time, a transmission included (70_reset_and_hazards.md R170, R171): the state is
that of 10_state.md R32 with the line low, the same as RESET's. That the model has this move during a transmission, which U13
leaves out, and that the schedule and the outputs stay, is the model's own (log 14, log 15). -/
def Obligations.RstPortRestartsAtAnyTime : Prop :=
  ∀ (s : State) (rest : List Event), s.agenda = .rst :: rest → ∃ t, step s = .next t ∧
    t.cfg = (State.resetWith s.params).cfg ∧ t.time = 0#16 ∧ t.rxwin = 0#24 ∧ (∀ a, Memory.get t.fb a = 0#8) ∧
    t.ms = .drain ∧ t.ser.state = .idle ∧ t.dout = false ∧ t.line = s.line ∧ t.echo = s.echo ∧ t.agenda = rest ∧
    ∀ par, exec (.reset par) (s.setAgenda rest) = .next t

/-- The main sequencer is the sole writer of the configuration (20_memory.md R47, R49, 90_conflicts.md C7): a step changes a
register only as a `Drain` of a recognised window or as a reset. -/
def Obligations.OnlyDrainWritesTheRegisters : Prop :=
  ∀ s t : State, step s = .next t → t.cfg ≠ s.cfg →
    (∃ rest, s.agenda = .rst :: rest) ∨
    (s.threadNext = true ∧ s.ser.state = .idle ∧ s.ms = .drain ∧ recognised s.rxwin = true)

/-- The generator is the sole writer of the frame buffer (10_state.md R23, 20_memory.md R47): a step changes a frame-buffer
byte only as a byte write of a generation cycle, and then that byte alone, or as a reset. -/
def Obligations.OnlyTheGeneratorWritesTheFrameBuffer : Prop :=
  ∀ s t : State, s.Inv → step s = .next t → ∀ a, Memory.get t.fb a ≠ Memory.get s.fb a →
    (∃ rest, s.agenda = .rst :: rest) ∨
    (s.threadNext = true ∧ s.ser.state = .idle ∧ s.ms = .drain ∧ ∃ par, decodeWindow s.rxwin = .ok (.reset par)) ∨
    (s.threadNext = true ∧ s.ser.state = .idle ∧ ∃ w q, s.ms = .gen (w :: q) ∧ w.addr = a ∧ Memory.get t.fb a = w.val)

/-- `time` is written by the phase advance, by MODE and by reset, and by nothing else (10_state.md R21). -/
def Obligations.OnlyAdvanceModeAndResetWriteThePhase : Prop :=
  ∀ s t : State, step s = .next t → t.time ≠ s.time →
    (∃ rest, s.agenda = .rst :: rest) ∨
    (s.threadNext = true ∧ s.ser.state = .idle ∧ s.ms = .gen [] ∧ t.time = s.time + s.cfg.speed) ∨
    (s.threadNext = true ∧ s.ser.state = .idle ∧ s.ms = .drain ∧ t.time = 0#16 ∧
      ∃ par, decodeWindow s.rxwin = .ok (.mode par) ∨ decodeWindow s.rxwin = .ok (.reset par))

/-- The outputs are append-only, in every step (10_state.md R26), and a step appends at most one frame. That a reset keeps what has
been sent and echoed is the model's choice (log 15), and R26 says nothing of resets. -/
def Obligations.OutputsOnlyGrow : Prop :=
  ∀ s t : State, step s = .next t → s.line <+: t.line ∧ s.echo <+: t.echo ∧ t.line.length ≤ s.line.length + 1

/-- A quiescent state is not a fixed point (70_reset_and_hazards.md R187): with nothing scheduled, the block takes a step from
it and leaves `DRAIN`, so it is no longer quiescent. That an empty schedule lets the block's own thread move is the model's choice
(log 1), and that this step completes with `pixelCount > CAPACITY` too is its reading (log 11). -/
def Obligations.QuiescentStateMovesOn : Prop :=
  ∀ s : State, s.quiescent = true → s.agenda = [] → ∃ t, step s = .next t ∧ t.quiescent = false
end

