-- ==== Sys2Proof/Laws/Decode.lean ====
section
/-! SUPPORT. What the window operations, the decoder and the encoder do, once each. -/

namespace Sys2Proof

theorem oldest_ofBytes (a b c : Byte) : (Window.ofBytes a b c).oldest = a := by
  unfold Window.oldest Window.ofBytes
  ext i hi
  simp only [BitVec.getElem_extractLsb', BitVec.getLsbD_append]
  rw [if_neg (by omega), if_neg (by omega)]
  simp [BitVec.getLsbD_eq_getElem (show i < 8 by omega), show 16 + i - 8 - 8 = i by omega]

theorem middle_ofBytes (a b c : Byte) : (Window.ofBytes a b c).middle = b := by
  unfold Window.middle Window.ofBytes
  ext i hi
  simp only [BitVec.getElem_extractLsb', BitVec.getLsbD_append]
  rw [if_neg (by omega), if_pos (by omega)]
  simp [BitVec.getLsbD_eq_getElem (show i < 8 by omega), show 8 + i - 8 = i by omega]

theorem newest_ofBytes (a b c : Byte) : (Window.ofBytes a b c).newest = c := by
  unfold Window.newest Window.ofBytes
  ext i hi
  simp only [BitVec.getElem_extractLsb', BitVec.getLsbD_append]
  rw [if_pos (by omega)]
  simp [BitVec.getLsbD_eq_getElem (show i < 8 by omega)]

theorem ofBytes_fields (w : Window) : Window.ofBytes w.oldest w.middle w.newest = w := by
  unfold Window.oldest Window.middle Window.newest Window.ofBytes
  apply BitVec.eq_of_getLsbD_eq
  intro i hi
  simp only [BitVec.getLsbD_append, BitVec.getLsbD_extractLsb']
  by_cases h1 : i < 8
  · simp [h1]
  · by_cases h2 : i < 16
    · simp [h1, show i - 8 < 8 by omega, show 8 + (i - 8) = i by omega]
    · simp [h1, show ¬ i - 8 < 8 by omega, show i - 8 - 8 < 8 by omega, show 16 + (i - 8 - 8) = i by omega]

/-- A window is its three bytes. -/
theorem window_cases (w : Window) : ∃ a b c, w = Window.ofBytes a b c :=
  ⟨w.oldest, w.middle, w.newest, (ofBytes_fields w).symm⟩

theorem zero_eq_ofBytes : (0#24 : Window) = Window.ofBytes 0#8 0#8 0#8 := by decide

theorem ofBytes_toNat (a b c : Byte) :
    (Window.ofBytes a b c).toNat = a.toNat * 65536 + b.toNat * 256 + c.toNat := by
  unfold Window.ofBytes
  have ha := a.isLt
  have hb := b.isLt
  have hc := c.isLt
  simp only [BitVec.toNat_append, Nat.shiftLeft_eq]
  rw [← Nat.shiftLeft_eq, ← Nat.shiftLeft_eq, ← Nat.shiftLeft_add_eq_or_of_lt (by omega),
    ← Nat.shiftLeft_add_eq_or_of_lt (by omega)]
  simp only [Nat.shiftLeft_eq]
  omega

/-- The oldest byte is dropped, the new one comes last (30_encoding.md R61). -/
theorem shiftIn_ofBytes (a b c x : Byte) : (Window.ofBytes a b c).shiftIn x = Window.ofBytes b c x := by
  unfold Window.shiftIn Window.ofBytes
  apply BitVec.eq_of_getLsbD_eq
  intro i hi
  simp only [BitVec.getLsbD_or, BitVec.getLsbD_shiftLeft, BitVec.getLsbD_append, BitVec.getLsbD_setWidth]
  by_cases h1 : i < 8
  · simp [h1, hi]
  · have hx : x.getLsbD i = false := BitVec.getLsbD_of_ge x i (by omega)
    by_cases h2 : i < 16
    · simp [h1, hi, hx, show i - 8 < 8 by omega]
    · simp [h1, hi, hx, show ¬ i - 8 < 8 by omega, show i - 8 - 8 < 8 by omega]

/-- The recognition predicate on the three bytes (30_encoding.md R62). -/
theorem recognised_ofBytes (a b c : Byte) :
    recognised (Window.ofBytes a b c) = (a != 0#8 && c == Config.sync) := by
  unfold recognised
  rw [newest_ofBytes]
  congr 1
  have hb := b.isLt
  have hc := c.isLt
  rw [Bool.eq_iff_iff]
  simp only [BitVec.ult, decide_eq_true_eq, ofBytes_toNat, bne_iff_ne, ne_eq, ← BitVec.toNat_inj]
  simp only [BitVec.toNat_ofNat]
  omega

theorem encode_eq (i : Instr) : encode i = Window.ofBytes i.opcode i.parameter Config.sync := rfl

theorem opcode_pos (i : Instr) : i.opcode ≠ 0#8 := by cases i <;> simp [Instr.opcode]

theorem recognised_encode (i : Instr) : recognised (encode i) = true := by
  rw [encode_eq, recognised_ofBytes]
  simp [opcode_pos i]

theorem decodeOpcode_opcode (i : Instr) : decodeOpcode i.opcode i.parameter = some i := by
  cases i <;> rfl

/-- An opcode the map has is the opcode of the command it gives, with that parameter. -/
theorem decodeOpcode_some {op par : Byte} {i : Instr} (h : decodeOpcode op par = some i) :
    i.opcode = op ∧ i.parameter = par := by
  unfold decodeOpcode at h
  split at h <;>
    first
    | (rename_i hop
       cases h
       exact ⟨BitVec.eq_of_toNat_eq hop.symm, rfl⟩)
    | cases h

/-- The map has exactly the opcodes 0x01 to 0x0B (30_encoding.md R65). -/
theorem decodeOpcode_none (op par : Byte) :
    decodeOpcode op par = none ↔ op.toNat = 0 ∨ 0x0C ≤ op.toNat := by
  unfold decodeOpcode
  split <;> simp_all
  omega

/-- What the decoder answers on a recognised window (30_encoding.md R63, R66 c). -/
theorem decodeWindow_recognised {w : Window} (h : recognised w = true) :
    (∃ i, decodeWindow w = .ok i ∧ i.opcode = w.oldest ∧ i.parameter = w.middle) ∨
    (decodeWindow w = .error (.reservedOpcode w.oldest w.middle) ∧ 0x0C ≤ w.oldest.toNat) := by
  unfold decodeWindow
  rw [if_pos h]
  cases hd : decodeOpcode w.oldest w.middle with
  | some i => exact .inl ⟨i, rfl, decodeOpcode_some hd⟩
  | none =>
    refine .inr ⟨rfl, ?_⟩
    obtain ⟨a, b, c, rfl⟩ := window_cases w
    rw [recognised_ofBytes] at h
    rw [oldest_ofBytes, middle_ofBytes] at hd
    rw [oldest_ofBytes]
    rcases (decodeOpcode_none a b).1 hd with h0 | h0
    · have : a = 0#8 := BitVec.eq_of_toNat_eq h0
      simp [this] at h
    · exact h0

/-- A window that decodes is recognised. -/
theorem recognised_of_decodeWindow {w : Window} {i : Instr} (h : decodeWindow w = .ok i) :
    recognised w = true := by
  unfold decodeWindow at h
  by_contra hr
  rw [if_neg hr] at h
  split at h <;> cases h

end Sys2Proof
end

