-- ==== Sys2Proof/Laws/Memory.lean ====
section
/-! SUPPORT. The laws of the frame buffer: read after write, and that a write keeps the canonical form. -/

namespace Sys2Proof.Machine

theorem Memory.risingFrom_le {m : Memory} {low low' : Nat} (h : Memory.risingFrom low m = true) (hl : low' ≤ low) :
    Memory.risingFrom low' m = true := by
  cases m with
  | nil => rfl
  | cons c rest =>
    obtain ⟨k, v⟩ := c
    simp only [Memory.risingFrom, Bool.and_eq_true, decide_eq_true_eq] at h ⊢
    exact ⟨by omega, h.2⟩

/-- Below the first address the list reads as unlisted. -/
theorem Memory.get_below {m : Memory} {low a : Nat} (h : Memory.risingFrom low m = true) (ha : a < low) :
    Memory.get m a = Memory.unlisted := by
  induction m generalizing low with
  | nil => rfl
  | cons c rest ih =>
    obtain ⟨k, v⟩ := c
    simp only [Memory.risingFrom, Bool.and_eq_true, decide_eq_true_eq] at h
    simp only [Memory.get]
    rw [if_neg (by omega)]
    exact ih h.2 (by omega)

theorem Memory.risingFrom_put {m : Memory} {low a : Nat} (v : Byte) (h : Memory.risingFrom low m = true)
    (ha : low ≤ a) : Memory.risingFrom low (Memory.put m a v) = true := by
  induction m generalizing low with
  | nil =>
    simp only [Memory.put]
    split
    · rfl
    · simp [Memory.risingFrom, ha]
  | cons c rest ih =>
    obtain ⟨k, w⟩ := c
    simp only [Memory.risingFrom, Bool.and_eq_true, decide_eq_true_eq] at h
    simp only [Memory.put]
    split
    · split
      · simp [Memory.risingFrom, h.1, h.2]
      · rename_i hak _
        simp [Memory.risingFrom, ha, h.2]
        omega
    · split
      · split
        · exact Memory.risingFrom_le h.2 (by omega)
        · rename_i hak _
          subst hak
          simp [Memory.risingFrom, h.1, h.2]
      · simp only [Memory.risingFrom, Bool.and_eq_true, decide_eq_true_eq]
        exact ⟨h.1, ih h.2 (by omega)⟩

/-- Read after write, on a list whose addresses rise. -/
theorem Memory.get_put {m : Memory} {low : Nat} (h : Memory.risingFrom low m = true) (a b : Nat) (v : Byte) :
    Memory.get (Memory.put m a v) b = if b = a then v else Memory.get m b := by
  induction m generalizing low with
  | nil =>
    simp only [Memory.put]
    split
    · rename_i hv
      simp [Memory.get, hv]
    · rfl
  | cons c rest ih =>
    obtain ⟨k, w⟩ := c
    simp only [Memory.risingFrom, Bool.and_eq_true, decide_eq_true_eq] at h
    have hbelow : ∀ x, x ≤ k → Memory.get rest x = Memory.unlisted :=
      fun x hx => Memory.get_below h.2 (by omega)
    simp only [Memory.put]
    split
    · rename_i hak
      split
      · rename_i hv
        by_cases hb : b = a
        · subst hb
          simp only [Memory.get, if_neg (show ¬ b = k by omega), if_true, hv]
          exact hbelow b (by omega)
        · rw [if_neg hb]
      · rfl
    · split
      · rename_i hak
        subst hak
        split
        · rename_i hv
          by_cases hb : b = a
          · subst hb
            rw [if_pos rfl, hv]
            exact hbelow b (by omega)
          · simp [Memory.get, hb]
        · by_cases hb : b = a <;> simp [Memory.get, hb]
      · rename_i hka
        simp only [Memory.get]
        by_cases hb : b = k
        · rw [if_pos hb, if_pos hb, if_neg (by omega)]
        · rw [if_neg hb, if_neg hb]
          exact ih h.2

theorem Memory.wf_rising {size : Nat} {m : Memory} (h : Memory.wf size m = true) : Memory.risingFrom 0 m = true := by
  simp only [Memory.wf, Bool.and_eq_true] at h
  exact h.1

theorem Memory.get_put_wf {size : Nat} {m : Memory} (h : Memory.wf size m = true) (a b : Nat) (v : Byte) :
    Memory.get (Memory.put m a v) b = if b = a then v else Memory.get m b :=
  Memory.get_put (Memory.wf_rising h) a b v

theorem Memory.all_put {p : Host.Cell → Bool} {m : Memory} {a : Nat} {v : Byte} (h : m.all p = true)
    (hp : v ≠ Memory.unlisted → p (a, v) = true) : (Memory.put m a v).all p = true := by
  induction m with
  | nil =>
    simp only [Memory.put]
    split
    · rfl
    · rename_i hv
      simp [hp hv]
  | cons c rest ih =>
    obtain ⟨k, w⟩ := c
    simp only [List.all_cons, Bool.and_eq_true] at h
    simp only [Memory.put]
    split
    · split
      · simpa using h
      · rename_i hv
        simpa [hp hv] using h
    · split
      · split
        · exact h.2
        · rename_i hv
          simpa [hp hv] using h.2
      · simpa [h.1] using ih h.2

/-- A write to an address of the frame buffer keeps the canonical form. -/
theorem Memory.wf_put {size : Nat} {m : Memory} {a : Nat} (v : Byte) (h : Memory.wf size m = true) (ha : a < size) :
    Memory.wf size (Memory.put m a v) = true := by
  simp only [Memory.wf, Bool.and_eq_true] at h ⊢
  refine ⟨Memory.risingFrom_put v h.1 (by omega), Memory.all_put h.2 ?_⟩
  intro hv
  simp [ha, hv]

theorem Memory.wf_nil (size : Nat) : Memory.wf size [] = true := rfl

end Sys2Proof.Machine
end

