-- ==== Sys2Proof/Laws/State.lean ====
section
/-! SUPPORT. One lemma per field per named update of State, so that no proof unfolds a record update. -/

namespace Sys2Proof.Machine

variable (s : State)

@[simp] theorem State.setCfg_params (v : Cfg) : (s.setCfg v).params = s.params := rfl
@[simp] theorem State.setCfg_cfg (v : Cfg) : (s.setCfg v).cfg = v := rfl
@[simp] theorem State.setCfg_time (v : Cfg) : (s.setCfg v).time = s.time := rfl
@[simp] theorem State.setCfg_rxwin (v : Cfg) : (s.setCfg v).rxwin = s.rxwin := rfl
@[simp] theorem State.setCfg_fb (v : Cfg) : (s.setCfg v).fb = s.fb := rfl
@[simp] theorem State.setCfg_ms (v : Cfg) : (s.setCfg v).ms = s.ms := rfl
@[simp] theorem State.setCfg_ser (v : Cfg) : (s.setCfg v).ser = s.ser := rfl
@[simp] theorem State.setCfg_dout (v : Cfg) : (s.setCfg v).dout = s.dout := rfl
@[simp] theorem State.setCfg_line (v : Cfg) : (s.setCfg v).line = s.line := rfl
@[simp] theorem State.setCfg_echo (v : Cfg) : (s.setCfg v).echo = s.echo := rfl
@[simp] theorem State.setCfg_agenda (v : Cfg) : (s.setCfg v).agenda = s.agenda := rfl
@[simp] theorem State.setCfg_draws (v : Cfg) : (s.setCfg v).draws = s.draws := rfl

@[simp] theorem State.setTime_params (v : Word16) : (s.setTime v).params = s.params := rfl
@[simp] theorem State.setTime_cfg (v : Word16) : (s.setTime v).cfg = s.cfg := rfl
@[simp] theorem State.setTime_time (v : Word16) : (s.setTime v).time = v := rfl
@[simp] theorem State.setTime_rxwin (v : Word16) : (s.setTime v).rxwin = s.rxwin := rfl
@[simp] theorem State.setTime_fb (v : Word16) : (s.setTime v).fb = s.fb := rfl
@[simp] theorem State.setTime_ms (v : Word16) : (s.setTime v).ms = s.ms := rfl
@[simp] theorem State.setTime_ser (v : Word16) : (s.setTime v).ser = s.ser := rfl
@[simp] theorem State.setTime_dout (v : Word16) : (s.setTime v).dout = s.dout := rfl
@[simp] theorem State.setTime_line (v : Word16) : (s.setTime v).line = s.line := rfl
@[simp] theorem State.setTime_echo (v : Word16) : (s.setTime v).echo = s.echo := rfl
@[simp] theorem State.setTime_agenda (v : Word16) : (s.setTime v).agenda = s.agenda := rfl
@[simp] theorem State.setTime_draws (v : Word16) : (s.setTime v).draws = s.draws := rfl

@[simp] theorem State.setRxwin_params (v : Window) : (s.setRxwin v).params = s.params := rfl
@[simp] theorem State.setRxwin_cfg (v : Window) : (s.setRxwin v).cfg = s.cfg := rfl
@[simp] theorem State.setRxwin_time (v : Window) : (s.setRxwin v).time = s.time := rfl
@[simp] theorem State.setRxwin_rxwin (v : Window) : (s.setRxwin v).rxwin = v := rfl
@[simp] theorem State.setRxwin_fb (v : Window) : (s.setRxwin v).fb = s.fb := rfl
@[simp] theorem State.setRxwin_ms (v : Window) : (s.setRxwin v).ms = s.ms := rfl
@[simp] theorem State.setRxwin_ser (v : Window) : (s.setRxwin v).ser = s.ser := rfl
@[simp] theorem State.setRxwin_dout (v : Window) : (s.setRxwin v).dout = s.dout := rfl
@[simp] theorem State.setRxwin_line (v : Window) : (s.setRxwin v).line = s.line := rfl
@[simp] theorem State.setRxwin_echo (v : Window) : (s.setRxwin v).echo = s.echo := rfl
@[simp] theorem State.setRxwin_agenda (v : Window) : (s.setRxwin v).agenda = s.agenda := rfl
@[simp] theorem State.setRxwin_draws (v : Window) : (s.setRxwin v).draws = s.draws := rfl

@[simp] theorem State.setFb_params (v : Memory) : (s.setFb v).params = s.params := rfl
@[simp] theorem State.setFb_cfg (v : Memory) : (s.setFb v).cfg = s.cfg := rfl
@[simp] theorem State.setFb_time (v : Memory) : (s.setFb v).time = s.time := rfl
@[simp] theorem State.setFb_rxwin (v : Memory) : (s.setFb v).rxwin = s.rxwin := rfl
@[simp] theorem State.setFb_fb (v : Memory) : (s.setFb v).fb = v := rfl
@[simp] theorem State.setFb_ms (v : Memory) : (s.setFb v).ms = s.ms := rfl
@[simp] theorem State.setFb_ser (v : Memory) : (s.setFb v).ser = s.ser := rfl
@[simp] theorem State.setFb_dout (v : Memory) : (s.setFb v).dout = s.dout := rfl
@[simp] theorem State.setFb_line (v : Memory) : (s.setFb v).line = s.line := rfl
@[simp] theorem State.setFb_echo (v : Memory) : (s.setFb v).echo = s.echo := rfl
@[simp] theorem State.setFb_agenda (v : Memory) : (s.setFb v).agenda = s.agenda := rfl
@[simp] theorem State.setFb_draws (v : Memory) : (s.setFb v).draws = s.draws := rfl

@[simp] theorem State.setMs_params (v : MainPos) : (s.setMs v).params = s.params := rfl
@[simp] theorem State.setMs_cfg (v : MainPos) : (s.setMs v).cfg = s.cfg := rfl
@[simp] theorem State.setMs_time (v : MainPos) : (s.setMs v).time = s.time := rfl
@[simp] theorem State.setMs_rxwin (v : MainPos) : (s.setMs v).rxwin = s.rxwin := rfl
@[simp] theorem State.setMs_fb (v : MainPos) : (s.setMs v).fb = s.fb := rfl
@[simp] theorem State.setMs_ms (v : MainPos) : (s.setMs v).ms = v := rfl
@[simp] theorem State.setMs_ser (v : MainPos) : (s.setMs v).ser = s.ser := rfl
@[simp] theorem State.setMs_dout (v : MainPos) : (s.setMs v).dout = s.dout := rfl
@[simp] theorem State.setMs_line (v : MainPos) : (s.setMs v).line = s.line := rfl
@[simp] theorem State.setMs_echo (v : MainPos) : (s.setMs v).echo = s.echo := rfl
@[simp] theorem State.setMs_agenda (v : MainPos) : (s.setMs v).agenda = s.agenda := rfl
@[simp] theorem State.setMs_draws (v : MainPos) : (s.setMs v).draws = s.draws := rfl

@[simp] theorem State.setSer_params (v : Serializer) : (s.setSer v).params = s.params := rfl
@[simp] theorem State.setSer_cfg (v : Serializer) : (s.setSer v).cfg = s.cfg := rfl
@[simp] theorem State.setSer_time (v : Serializer) : (s.setSer v).time = s.time := rfl
@[simp] theorem State.setSer_rxwin (v : Serializer) : (s.setSer v).rxwin = s.rxwin := rfl
@[simp] theorem State.setSer_fb (v : Serializer) : (s.setSer v).fb = s.fb := rfl
@[simp] theorem State.setSer_ms (v : Serializer) : (s.setSer v).ms = s.ms := rfl
@[simp] theorem State.setSer_ser (v : Serializer) : (s.setSer v).ser = v := rfl
@[simp] theorem State.setSer_dout (v : Serializer) : (s.setSer v).dout = s.dout := rfl
@[simp] theorem State.setSer_line (v : Serializer) : (s.setSer v).line = s.line := rfl
@[simp] theorem State.setSer_echo (v : Serializer) : (s.setSer v).echo = s.echo := rfl
@[simp] theorem State.setSer_agenda (v : Serializer) : (s.setSer v).agenda = s.agenda := rfl
@[simp] theorem State.setSer_draws (v : Serializer) : (s.setSer v).draws = s.draws := rfl

@[simp] theorem State.setDout_params (v : Bool) : (s.setDout v).params = s.params := rfl
@[simp] theorem State.setDout_cfg (v : Bool) : (s.setDout v).cfg = s.cfg := rfl
@[simp] theorem State.setDout_time (v : Bool) : (s.setDout v).time = s.time := rfl
@[simp] theorem State.setDout_rxwin (v : Bool) : (s.setDout v).rxwin = s.rxwin := rfl
@[simp] theorem State.setDout_fb (v : Bool) : (s.setDout v).fb = s.fb := rfl
@[simp] theorem State.setDout_ms (v : Bool) : (s.setDout v).ms = s.ms := rfl
@[simp] theorem State.setDout_ser (v : Bool) : (s.setDout v).ser = s.ser := rfl
@[simp] theorem State.setDout_dout (v : Bool) : (s.setDout v).dout = v := rfl
@[simp] theorem State.setDout_line (v : Bool) : (s.setDout v).line = s.line := rfl
@[simp] theorem State.setDout_echo (v : Bool) : (s.setDout v).echo = s.echo := rfl
@[simp] theorem State.setDout_agenda (v : Bool) : (s.setDout v).agenda = s.agenda := rfl
@[simp] theorem State.setDout_draws (v : Bool) : (s.setDout v).draws = s.draws := rfl

@[simp] theorem State.setLine_params (v : List (List Symbol)) : (s.setLine v).params = s.params := rfl
@[simp] theorem State.setLine_cfg (v : List (List Symbol)) : (s.setLine v).cfg = s.cfg := rfl
@[simp] theorem State.setLine_time (v : List (List Symbol)) : (s.setLine v).time = s.time := rfl
@[simp] theorem State.setLine_rxwin (v : List (List Symbol)) : (s.setLine v).rxwin = s.rxwin := rfl
@[simp] theorem State.setLine_fb (v : List (List Symbol)) : (s.setLine v).fb = s.fb := rfl
@[simp] theorem State.setLine_ms (v : List (List Symbol)) : (s.setLine v).ms = s.ms := rfl
@[simp] theorem State.setLine_ser (v : List (List Symbol)) : (s.setLine v).ser = s.ser := rfl
@[simp] theorem State.setLine_dout (v : List (List Symbol)) : (s.setLine v).dout = s.dout := rfl
@[simp] theorem State.setLine_line (v : List (List Symbol)) : (s.setLine v).line = v := rfl
@[simp] theorem State.setLine_echo (v : List (List Symbol)) : (s.setLine v).echo = s.echo := rfl
@[simp] theorem State.setLine_agenda (v : List (List Symbol)) : (s.setLine v).agenda = s.agenda := rfl
@[simp] theorem State.setLine_draws (v : List (List Symbol)) : (s.setLine v).draws = s.draws := rfl

@[simp] theorem State.setEcho_params (v : List Byte) : (s.setEcho v).params = s.params := rfl
@[simp] theorem State.setEcho_cfg (v : List Byte) : (s.setEcho v).cfg = s.cfg := rfl
@[simp] theorem State.setEcho_time (v : List Byte) : (s.setEcho v).time = s.time := rfl
@[simp] theorem State.setEcho_rxwin (v : List Byte) : (s.setEcho v).rxwin = s.rxwin := rfl
@[simp] theorem State.setEcho_fb (v : List Byte) : (s.setEcho v).fb = s.fb := rfl
@[simp] theorem State.setEcho_ms (v : List Byte) : (s.setEcho v).ms = s.ms := rfl
@[simp] theorem State.setEcho_ser (v : List Byte) : (s.setEcho v).ser = s.ser := rfl
@[simp] theorem State.setEcho_dout (v : List Byte) : (s.setEcho v).dout = s.dout := rfl
@[simp] theorem State.setEcho_line (v : List Byte) : (s.setEcho v).line = s.line := rfl
@[simp] theorem State.setEcho_echo (v : List Byte) : (s.setEcho v).echo = v := rfl
@[simp] theorem State.setEcho_agenda (v : List Byte) : (s.setEcho v).agenda = s.agenda := rfl
@[simp] theorem State.setEcho_draws (v : List Byte) : (s.setEcho v).draws = s.draws := rfl

@[simp] theorem State.setAgenda_params (v : List Event) : (s.setAgenda v).params = s.params := rfl
@[simp] theorem State.setAgenda_cfg (v : List Event) : (s.setAgenda v).cfg = s.cfg := rfl
@[simp] theorem State.setAgenda_time (v : List Event) : (s.setAgenda v).time = s.time := rfl
@[simp] theorem State.setAgenda_rxwin (v : List Event) : (s.setAgenda v).rxwin = s.rxwin := rfl
@[simp] theorem State.setAgenda_fb (v : List Event) : (s.setAgenda v).fb = s.fb := rfl
@[simp] theorem State.setAgenda_ms (v : List Event) : (s.setAgenda v).ms = s.ms := rfl
@[simp] theorem State.setAgenda_ser (v : List Event) : (s.setAgenda v).ser = s.ser := rfl
@[simp] theorem State.setAgenda_dout (v : List Event) : (s.setAgenda v).dout = s.dout := rfl
@[simp] theorem State.setAgenda_line (v : List Event) : (s.setAgenda v).line = s.line := rfl
@[simp] theorem State.setAgenda_echo (v : List Event) : (s.setAgenda v).echo = s.echo := rfl
@[simp] theorem State.setAgenda_agenda (v : List Event) : (s.setAgenda v).agenda = v := rfl
@[simp] theorem State.setAgenda_draws (v : List Event) : (s.setAgenda v).draws = s.draws := rfl

@[simp] theorem State.setDraws_params (v : Nat) : (s.setDraws v).params = s.params := rfl
@[simp] theorem State.setDraws_cfg (v : Nat) : (s.setDraws v).cfg = s.cfg := rfl
@[simp] theorem State.setDraws_time (v : Nat) : (s.setDraws v).time = s.time := rfl
@[simp] theorem State.setDraws_rxwin (v : Nat) : (s.setDraws v).rxwin = s.rxwin := rfl
@[simp] theorem State.setDraws_fb (v : Nat) : (s.setDraws v).fb = s.fb := rfl
@[simp] theorem State.setDraws_ms (v : Nat) : (s.setDraws v).ms = s.ms := rfl
@[simp] theorem State.setDraws_ser (v : Nat) : (s.setDraws v).ser = s.ser := rfl
@[simp] theorem State.setDraws_dout (v : Nat) : (s.setDraws v).dout = s.dout := rfl
@[simp] theorem State.setDraws_line (v : Nat) : (s.setDraws v).line = s.line := rfl
@[simp] theorem State.setDraws_echo (v : Nat) : (s.setDraws v).echo = s.echo := rfl
@[simp] theorem State.setDraws_agenda (v : Nat) : (s.setDraws v).agenda = s.agenda := rfl
@[simp] theorem State.setDraws_draws (v : Nat) : (s.setDraws v).draws = v := rfl

@[simp] theorem State.resetWith_params (p : Config.Params) : (State.resetWith p).params = p := rfl
@[simp] theorem State.resetWith_cfg (p : Config.Params) : (State.resetWith p).cfg = Cfg.atReset p := rfl
@[simp] theorem State.resetWith_time (p : Config.Params) : (State.resetWith p).time = 0#16 := rfl
@[simp] theorem State.resetWith_rxwin (p : Config.Params) : (State.resetWith p).rxwin = 0#24 := rfl
@[simp] theorem State.resetWith_fb (p : Config.Params) : (State.resetWith p).fb = [] := rfl
@[simp] theorem State.resetWith_ms (p : Config.Params) : (State.resetWith p).ms = .drain := rfl
@[simp] theorem State.resetWith_ser (p : Config.Params) : (State.resetWith p).ser = Serializer.atReset := rfl
@[simp] theorem State.resetWith_dout (p : Config.Params) : (State.resetWith p).dout = false := rfl
@[simp] theorem State.resetWith_line (p : Config.Params) : (State.resetWith p).line = [] := rfl
@[simp] theorem State.resetWith_echo (p : Config.Params) : (State.resetWith p).echo = [] := rfl
@[simp] theorem State.resetWith_agenda (p : Config.Params) : (State.resetWith p).agenda = [] := rfl
@[simp] theorem State.resetWith_draws (p : Config.Params) : (State.resetWith p).draws = 0 := rfl

end Sys2Proof.Machine
end

