-- ==== Sys2Proof/Laws/Ops.lean ====
section
/-! SUPPORT. What each shared operation does, once. -/

namespace Sys2Proof.Machine

@[simp] theorem andThen_next (s : State) (f : State → StepResult) : andThen (.next s) f = f s := rfl
@[simp] theorem andThen_fault (e : Fault) (f : State → StepResult) : andThen (.fault e) f = .fault e := rfl
@[simp] theorem andThen_refused (e : Refusal) (f : State → StepResult) : andThen (.refused e) f = .refused e := rfl

/-- A composition that answers a next state went through a next state. -/
theorem andThen_eq_next {r : StepResult} {f : State → StepResult} {t : State} (h : andThen r f = .next t) :
    ∃ u, r = .next u ∧ f u = .next t := by
  cases r with
  | next u => exact ⟨u, rfl, h⟩
  | fault e => cases h
  | refused e => cases h

/-! ## Halves of a 16-bit register -/

theorem hi8_join16 (h l : Byte) : hi8 (join16 h l) = h := by
  unfold hi8 join16
  ext i hi
  simp only [BitVec.getElem_extractLsb', BitVec.getLsbD_append]
  rw [if_neg (by omega)]
  simp [BitVec.getLsbD_eq_getElem (show i < 8 by omega), show 8 + i - 8 = i by omega]

theorem lo8_join16 (h l : Byte) : lo8 (join16 h l) = l := by
  unfold lo8 join16
  ext i hi
  simp only [BitVec.getElem_extractLsb', BitVec.getLsbD_append]
  rw [if_pos (by omega)]
  simp [BitVec.getLsbD_eq_getElem (show i < 8 by omega)]

theorem join16_toNat (h l : Byte) : (join16 h l).toNat = h.toNat * 256 + l.toNat := by
  unfold join16
  have := l.isLt
  simp only [BitVec.toNat_append, Nat.shiftLeft_eq]
  rw [← Nat.shiftLeft_eq, ← Nat.shiftLeft_add_eq_or_of_lt (by omega), Nat.shiftLeft_eq]

/-- Register read after register write: the port written reads the byte written, every other port is unchanged. -/
theorem Cfg.read_write (c : Cfg) (r r' : CfgPort) (v : Byte) :
    (c.write r v).read r' = if r' = r then v else c.read r' := by
  cases r <;> cases r' <;> simp [Cfg.write, Cfg.read, hi8_join16, lo8_join16]

/-! ## Register writes change nothing else -/

@[simp] theorem writeReg_cfg (r : CfgPort) (v : Byte) (s : State) : (writeReg r v s).cfg = s.cfg.write r v := rfl
@[simp] theorem writeReg_params (r : CfgPort) (v : Byte) (s : State) : (writeReg r v s).params = s.params := rfl
@[simp] theorem writeReg_time (r : CfgPort) (v : Byte) (s : State) : (writeReg r v s).time = s.time := rfl
@[simp] theorem writeReg_rxwin (r : CfgPort) (v : Byte) (s : State) : (writeReg r v s).rxwin = s.rxwin := rfl
@[simp] theorem writeReg_fb (r : CfgPort) (v : Byte) (s : State) : (writeReg r v s).fb = s.fb := rfl
@[simp] theorem writeReg_ms (r : CfgPort) (v : Byte) (s : State) : (writeReg r v s).ms = s.ms := rfl
@[simp] theorem writeReg_ser (r : CfgPort) (v : Byte) (s : State) : (writeReg r v s).ser = s.ser := rfl
@[simp] theorem writeReg_dout (r : CfgPort) (v : Byte) (s : State) : (writeReg r v s).dout = s.dout := rfl
@[simp] theorem writeReg_line (r : CfgPort) (v : Byte) (s : State) : (writeReg r v s).line = s.line := rfl
@[simp] theorem writeReg_echo (r : CfgPort) (v : Byte) (s : State) : (writeReg r v s).echo = s.echo := rfl
@[simp] theorem writeReg_agenda (r : CfgPort) (v : Byte) (s : State) : (writeReg r v s).agenda = s.agenda := rfl
@[simp] theorem writeReg_draws (r : CfgPort) (v : Byte) (s : State) : (writeReg r v s).draws = s.draws := rfl

/-! ## The echo is one field -/

/-- What `emit_echo` makes of the echo output. -/
theorem emitEcho_eq (op par : Byte) (s : State) :
    emitEcho op par s = s.setEcho (if s.params.echoEnable then s.echo ++ [op, par] else s.echo) := by
  unfold emitEcho
  split <;> rfl

/-! ## The restart -/

@[simp] theorem restart_params (s : State) : (restart s).params = s.params := rfl
@[simp] theorem restart_cfg (s : State) : (restart s).cfg = Cfg.atReset s.params := rfl
@[simp] theorem restart_time (s : State) : (restart s).time = 0#16 := rfl
@[simp] theorem restart_rxwin (s : State) : (restart s).rxwin = 0#24 := rfl
@[simp] theorem restart_fb (s : State) : (restart s).fb = [] := rfl
@[simp] theorem restart_ms (s : State) : (restart s).ms = .drain := rfl
@[simp] theorem restart_ser (s : State) : (restart s).ser = Serializer.atReset := rfl
@[simp] theorem restart_dout (s : State) : (restart s).dout = false := rfl
@[simp] theorem restart_line (s : State) : (restart s).line = s.line := rfl
@[simp] theorem restart_echo (s : State) : (restart s).echo = s.echo := rfl
@[simp] theorem restart_agenda (s : State) : (restart s).agenda = s.agenda := rfl
@[simp] theorem restart_draws (s : State) : (restart s).draws = s.draws := rfl

/-! ## Memory accesses -/

theorem memRead_within {s : State} {a : Nat} (h : a < s.fbSize) : memRead s a = some (Memory.get s.fb a) := if_pos h

theorem memWrite_within {s : State} {a : Nat} (v : Byte) (h : a < s.fbSize) :
    memWrite s a v = some (s.setFb (Memory.put s.fb a v)) := if_pos h

theorem memWrite_eq_some {s t : State} {a : Nat} {v : Byte} (h : memWrite s a v = some t) :
    a < s.fbSize ∧ t = s.setFb (Memory.put s.fb a v) := by
  unfold memWrite at h
  split at h
  · rename_i ha
    cases h
    exact ⟨ha, rfl⟩
  · cases h

/-- Pixels of the buffer's capacity are bytes of the buffer. -/
theorem pixelAddr_lt {i c n : Nat} (hi : i < n) (hc : c < 3) : pixelAddr i c < 3 * n := by
  unfold pixelAddr
  omega

theorem wireChannel_lt (k : Nat) : wireChannel k < 3 := by
  unfold wireChannel
  split <;> omega

/-! ## The data line -/

/-- The level depends on the serializer, the frame buffer and the capacity alone. -/
theorem lineLevel_congr {s t : State} (hser : t.ser = s.ser) (hfb : t.fb = s.fb) (hp : t.params = s.params) :
    lineLevel t = lineLevel s := by
  unfold lineLevel currentByte memRead State.fbSize
  rw [hser, hfb, hp]

theorem lineLevel_idle {s : State} (h : s.ser.state = .idle) : lineLevel s = some false := by
  unfold lineLevel
  rw [h]

theorem lineLevel_latch {s : State} (h : s.ser.state = .latch) : lineLevel s = some false := by
  unfold lineLevel
  rw [h]

/-- The byte being sent exists when the pixel is one of the buffer's. -/
theorem currentByte_within {s : State} (h : s.ser.pix.toNat < s.params.capacity) :
    currentByte s = some (if s.ser.en then
      Memory.get s.fb (pixelAddr s.ser.pix.toNat (wireChannel s.ser.byte.val)) else 0#8) := by
  unfold currentByte
  split
  · rw [memRead_within]
    exact pixelAddr_lt h (wireChannel_lt _)
  · rfl

theorem driveLine_of_level {s : State} {l : Bool} (h : lineLevel s = some l) : driveLine s = .next (s.setDout l) := by
  unfold driveLine
  rw [h]

/-- What driving the line can do. -/
theorem driveLine_cases (s : State) :
    (∃ l, lineLevel s = some l ∧ driveLine s = .next (s.setDout l)) ∨
    (lineLevel s = none ∧ driveLine s = .fault .pixelCountOverCapacity) := by
  unfold driveLine
  cases lineLevel s with
  | none => exact .inr ⟨rfl, rfl⟩
  | some l => exact .inl ⟨l, rfl, rfl⟩

theorem driveLine_eq_next {s t : State} (h : driveLine s = .next t) : ∃ l, lineLevel s = some l ∧ t = s.setDout l := by
  rcases driveLine_cases s with ⟨l, hl, hd⟩ | ⟨-, hd⟩
  · rw [hd] at h
    cases h
    exact ⟨l, hl, rfl⟩
  · rw [hd] at h
    cases h

/-- Everything a tick can do (42_serializer.md R130, R141, R145). -/
theorem takeTick_eq_next {s t : State} (h : takeTick s = .next t) :
    s.busy = false ∧ s.overCapacity = false ∧ ∃ l,
      lineLevel (s.setSer (serializerStart (capturedEnable s) s.cfg.pixelCount)) = some l ∧
      t = ((s.setSer (serializerStart (capturedEnable s) s.cfg.pixelCount)).setDraws
        (s.draws + captureDraws s)).setDout l := by
  unfold takeTick at h
  split at h
  · cases h
  · split at h
    · cases h
    · rename_i hb ho
      obtain ⟨l, hl, ht⟩ := driveLine_eq_next h
      exact ⟨by simpa using hb, by simpa using ho, l, by rw [← hl]; rfl, ht⟩

end Sys2Proof.Machine
end

