-- ==== Sys2Proof/Laws/Generator.lean ====
section
/-! SUPPORT. What the generator's operations do, once each. -/

namespace Sys2Proof.Machine

/-- The painted pixels are the first ones, up to a bound. -/
theorem paintedPixels_eq_range (m : Mode) (n divisor : Nat) :
    ∃ k, k ≤ n ∧ paintedPixels m n divisor = List.range k := by
  cases m with
  | solid => exact ⟨n, le_refl n, rfl⟩
  | pulse => exact ⟨n, le_refl n, rfl⟩
  | rainbow => exact ⟨n, le_refl n, rfl⟩
  | movingPulse => exact ⟨n, le_refl n, rfl⟩
  | progressBar =>
    by_cases h : divisor = 0
    · exact ⟨0, Nat.zero_le n, if_pos h⟩
    · exact ⟨_, Nat.min_le_left n (n / divisor + 1), if_neg h⟩

/-- A frame has only active pixels, whatever the registers hold (41_generator.md R100, R119). -/
theorem frame_active {c : Cfg} {t : Word16} {k : Nat} {ip : Nat × Pixel} (h : ip ∈ frame c t k) :
    ip.1 < c.pixelCount.toNat := by
  unfold frame at h
  split at h
  · rename_i m hm
    obtain ⟨j, hj, hr⟩ := paintedPixels_eq_range m c.pixelCount.toNat c.divisor.toNat
    rw [hr] at h
    split at h <;>
    · simp only [List.mem_map, List.mem_range] at h
      obtain ⟨i, hi, rfl⟩ := h
      exact lt_of_lt_of_le hi hj
  · simp only [List.mem_map, List.mem_filter, List.mem_range] at h
    obtain ⟨i, hi, rfl⟩ := h
    exact hi.1

/-- Where the registers are in their domains, the frame is the mode's colour of every painted pixel. -/
theorem frame_defined {c : Cfg} {m : Mode} {colour : Nat → Pixel} (t : Word16) (k : Nat)
    (hm : modeOf c.mode = some m) (hc : pixelColour c t m = some colour) :
    frame c t k = (paintedPixels m c.pixelCount.toNat c.divisor.toNat).map (fun i => (i, colour i)) := by
  unfold frame
  simp only [hm, hc]

/-- The byte writes of a cycle go to active pixels (41_generator.md R119). -/
theorem writes_within (c : Cfg) (t : Word16) (k : Nat) (w : ByteWrite) (h : w ∈ writes c t k) :
    w.addr < 3 * c.pixelCount.toNat := by
  unfold writes at h
  simp only [List.mem_flatMap] at h
  obtain ⟨ip, hip, hw⟩ := h
  have := frame_active hip
  unfold pixelWrites at hw
  simp only [List.mem_cons, List.not_mem_nil, or_false] at hw
  rcases hw with rfl | rfl | rfl <;> exact pixelAddr_lt this (by omega)

/-! ## The start and the end of a cycle -/

@[simp] theorem startCycle_params (s : State) : (startCycle s).params = s.params := rfl
@[simp] theorem startCycle_cfg (s : State) : (startCycle s).cfg = s.cfg := rfl
@[simp] theorem startCycle_time (s : State) : (startCycle s).time = s.time := rfl
@[simp] theorem startCycle_rxwin (s : State) : (startCycle s).rxwin = s.rxwin := rfl
@[simp] theorem startCycle_fb (s : State) : (startCycle s).fb = s.fb := rfl
@[simp] theorem startCycle_ms (s : State) : (startCycle s).ms = .gen (writes s.cfg s.time s.draws) := rfl
@[simp] theorem startCycle_ser (s : State) : (startCycle s).ser = s.ser := rfl
@[simp] theorem startCycle_dout (s : State) : (startCycle s).dout = s.dout := rfl
@[simp] theorem startCycle_line (s : State) : (startCycle s).line = s.line := rfl
@[simp] theorem startCycle_echo (s : State) : (startCycle s).echo = s.echo := rfl
@[simp] theorem startCycle_agenda (s : State) : (startCycle s).agenda = s.agenda := rfl

/-- Everything a `GenStep` can do (41_generator.md R115, R119). -/
theorem genStep_eq_next {q : List ByteWrite} {s t : State} (h : genStep q s = .next t) :
    s.overCapacity = false ∧
      ((q = [] ∧ t = endCycle s) ∨
       ∃ w rest, q = w :: rest ∧ w.addr < s.fbSize ∧
         t = (s.setFb (Memory.put s.fb w.addr w.val)).setMs (.gen rest)) := by
  unfold genStep at h
  split at h
  · cases h
  · rename_i ho
    refine ⟨by simpa using ho, ?_⟩
    cases q with
    | nil =>
      cases h
      exact .inl ⟨rfl, rfl⟩
    | cons w rest =>
      simp only at h
      cases hw : memWrite s w.addr w.val with
      | none => simp [hw] at h
      | some u =>
        obtain ⟨ha, rfl⟩ := memWrite_eq_some hw
        rw [hw] at h
        cases h
        exact .inr ⟨w, rest, rfl, ha, rfl⟩

/-- The last step of a cycle. -/
theorem genStep_nil {s : State} (h : s.overCapacity = false) : genStep [] s = .next (endCycle s) := by
  unfold genStep
  simp [h]

/-- A byte write of a cycle, at an address that exists. -/
theorem genStep_cons {s : State} {w : ByteWrite} (rest : List ByteWrite) (h : s.overCapacity = false)
    (hw : w.addr < s.fbSize) :
    genStep (w :: rest) s = .next ((s.setFb (Memory.put s.fb w.addr w.val)).setMs (.gen rest)) := by
  unfold genStep
  simp [h, memWrite_within w.val hw]

theorem overCapacity_eq_false {s : State} : s.overCapacity = false ↔ s.cfg.pixelCount.toNat ≤ s.params.capacity := by
  unfold State.overCapacity
  simp

theorem overCapacity_eq_true {s : State} : s.overCapacity = true ↔ s.params.capacity < s.cfg.pixelCount.toNat := by
  unfold State.overCapacity
  simp

/-- Scaling never wraps for a legal brightness (41_generator.md R102). -/
theorem scale_toNat (v b : Byte) (hb : b.toNat ≤ 100) : (scale v b).toNat = v.toNat * b.toNat / 100 := by
  have hv := v.isLt
  unfold scale
  rw [BitVec.toNat_ofNat]
  apply Nat.mod_eq_of_lt
  have : v.toNat * b.toNat ≤ 255 * 100 := Nat.mul_le_mul (by omega) hb
  omega

end Sys2Proof.Machine
end

