-- ==== Sys2Proof/Laws/PerInstr.lean ====
section
/-! SUPPORT. What holds of every command as text: its three bytes are recognised and carry its opcode and parameter. -/

namespace Sys2Proof.Laws.EncodedIsRecognised

/-- The word of a command is recognised (30_encoding.md R62) and holds its opcode, its parameter and the sync byte (R60). -/
def Statement (i : Instr) : Prop :=
  recognised (encode i) = true ∧ (encode i).oldest = i.opcode ∧ (encode i).middle = i.parameter ∧
    (encode i).newest = Config.sync

theorem of_encode (i : Instr) : Statement i :=
  ⟨recognised_encode i, oldest_ofBytes _ _ _, middle_ofBytes _ _ _, newest_ofBytes _ _ _⟩

theorem enable (par : Byte) : Statement (.enable par) := of_encode _
theorem bright (par : Byte) : Statement (.bright par) := of_encode _
theorem mode (par : Byte) : Statement (.mode par) := of_encode _
theorem color (par : Byte) : Statement (.color par) := of_encode _
theorem dir (par : Byte) : Statement (.dir par) := of_encode _
theorem count (par : Byte) : Statement (.count par) := of_encode _
theorem spdh (par : Byte) : Statement (.spdh par) := of_encode _
theorem spdl (par : Byte) : Statement (.spdl par) := of_encode _
theorem reset (par : Byte) : Statement (.reset par) := of_encode _
theorem regh (par : Byte) : Statement (.regh par) := of_encode _
theorem regl (par : Byte) : Statement (.regl par) := of_encode _

end Sys2Proof.Laws.EncodedIsRecognised
end

