-- ==== Sys2Proof/Laws/Serializer.lean ====
section
/-! SUPPORT. What the serializer's steps do, once each. -/

namespace Sys2Proof.Machine

/-- Everything an advance in SHIFT can do to the position: it stays in SHIFT with a pixel still below the count, or goes
to LATCH; the captured values and the latch counter stay (42_serializer.md R138). -/
theorem advanceShift_spec (z : Serializer) (hz : z.state = .shift) (hp : z.pix.toNat < z.count.toNat) :
    ((advanceShift z).state = .shift ∨ (advanceShift z).state = .latch) ∧
    (advanceShift z).pix.toNat < z.count.toNat ∧ (advanceShift z).count = z.count ∧
    (advanceShift z).en = z.en ∧ (advanceShift z).latch = z.latch := by
  have hc := z.count.isLt
  unfold advanceShift
  dsimp only
  split
  · exact ⟨.inl hz, hp, rfl, rfl, rfl⟩
  · split
    · exact ⟨.inl hz, hp, rfl, rfl, rfl⟩
    · split
      · exact ⟨.inl hz, hp, rfl, rfl, rfl⟩
      · split
        · rename_i hlt
          refine ⟨.inl hz, ?_, rfl, rfl, rfl⟩
          show (z.pix + 1#8).toNat < z.count.toNat
          rw [BitVec.toNat_add, BitVec.toNat_ofNat]
          omega
        · exact ⟨.inr rfl, hp, rfl, rfl, rfl⟩

/-- An advance in LATCH: one more unit, or IDLE after the last; everything else stays (42_serializer.md R138). -/
theorem advanceLatch_cases (latchUnits : Nat) (z : Serializer) :
    (z.latch + 1 < latchUnits ∧ advanceLatch latchUnits z = { z with latch := z.latch + 1 }) ∨
    (latchUnits ≤ z.latch + 1 ∧ advanceLatch latchUnits z = { z with state := .idle }) := by
  unfold advanceLatch
  by_cases h : z.latch + 1 < latchUnits
  · exact .inl ⟨h, if_pos h⟩
  · exact .inr ⟨by omega, if_neg h⟩

/-- Everything a unit can do (42_serializer.md R138): the serializer advances and the line follows it; at the end of the
latch the frame is appended to `line`. -/
theorem unitStep_eq_next {s t : State} (h : unitStep s = .next t) :
    (s.ser.state = .idle ∧ t = s) ∨
    (s.ser.state = .shift ∧ ∃ l, lineLevel (s.setSer (advanceShift s.ser)) = some l ∧
      t = (s.setSer (advanceShift s.ser)).setDout l) ∨
    (s.ser.state = .latch ∧ s.ser.latch + 1 < s.params.tLatchUnits ∧
      t = (s.setSer { s.ser with latch := s.ser.latch + 1 }).setDout false) ∨
    (s.ser.state = .latch ∧ s.params.tLatchUnits ≤ s.ser.latch + 1 ∧
      t = (returnFromTick (s.setSer { s.ser with state := .idle })).setDout false) := by
  unfold unitStep at h
  cases hst : s.ser.state with
  | idle =>
    simp only [hst] at h
    cases h
    exact .inl ⟨rfl, rfl⟩
  | shift =>
    simp only [hst] at h
    obtain ⟨l, hl, rfl⟩ := driveLine_eq_next h
    exact .inr (.inl ⟨rfl, l, hl, rfl⟩)
  | latch =>
    simp only [hst] at h
    rcases advanceLatch_cases s.params.tLatchUnits s.ser with ⟨hlt, ha⟩ | ⟨hge, ha⟩
    · rw [ha] at h
      simp only at h
      rw [hst] at h
      obtain ⟨l, hl, rfl⟩ := driveLine_eq_next h
      rw [lineLevel_latch (by rfl)] at hl
      cases hl
      exact .inr (.inr (.inl ⟨rfl, hlt, by simp only [hst]⟩))
    · rw [ha] at h
      simp only at h
      obtain ⟨l, hl, rfl⟩ := driveLine_eq_next h
      rw [lineLevel_idle (by rfl)] at hl
      cases hl
      exact .inr (.inr (.inr ⟨rfl, hge, rfl⟩))

/-- A unit of SHIFT inside the frame completes. -/
theorem unitStep_shift {s : State} {l : Bool} (h : s.ser.state = .shift)
    (hl : lineLevel (s.setSer (advanceShift s.ser)) = some l) :
    unitStep s = .next ((s.setSer (advanceShift s.ser)).setDout l) := by
  unfold unitStep
  simp only [h]
  exact driveLine_of_level hl

/-- A unit of LATCH that is not the last. -/
theorem unitStep_latch {s : State} (h : s.ser.state = .latch) (hl : s.ser.latch + 1 < s.params.tLatchUnits) :
    unitStep s = .next ((s.setSer { s.ser with latch := s.ser.latch + 1 }).setDout false) := by
  unfold unitStep
  simp only [h]
  rcases advanceLatch_cases s.params.tLatchUnits s.ser with ⟨-, ha⟩ | ⟨hge, -⟩
  · rw [ha]
    simp only
    rw [h]
    exact driveLine_of_level (lineLevel_latch rfl)
  · omega

/-- The last unit of LATCH returns from the tick. -/
theorem unitStep_latch_last {s : State} (h : s.ser.state = .latch) (hl : s.params.tLatchUnits ≤ s.ser.latch + 1) :
    unitStep s = .next ((returnFromTick (s.setSer { s.ser with state := .idle })).setDout false) := by
  unfold unitStep
  simp only [h]
  rcases advanceLatch_cases s.params.tLatchUnits s.ser with ⟨hlt, -⟩ | ⟨-, ha⟩
  · omega
  · rw [ha]
    exact driveLine_of_level (lineLevel_idle rfl)

end Sys2Proof.Machine
end

