-- ==== Sys2Proof/Laws/Step.lean ====
section
/-! SUPPORT. Everything a step can do, said once, and the cases of each agent. -/

namespace Sys2Proof.Machine

/-! ## The state the thread sees differs in the schedule alone -/

theorem threadSees_eq (s : State) : s.threadSees = s.setAgenda s.threadSees.agenda := by
  unfold State.threadSees
  split <;> rfl

@[simp] theorem threadSees_params (s : State) : s.threadSees.params = s.params := by rw [threadSees_eq]; rfl
@[simp] theorem threadSees_cfg (s : State) : s.threadSees.cfg = s.cfg := by rw [threadSees_eq]; rfl
@[simp] theorem threadSees_time (s : State) : s.threadSees.time = s.time := by rw [threadSees_eq]; rfl
@[simp] theorem threadSees_rxwin (s : State) : s.threadSees.rxwin = s.rxwin := by rw [threadSees_eq]; rfl
@[simp] theorem threadSees_fb (s : State) : s.threadSees.fb = s.fb := by rw [threadSees_eq]; rfl
@[simp] theorem threadSees_ms (s : State) : s.threadSees.ms = s.ms := by rw [threadSees_eq]; rfl
@[simp] theorem threadSees_ser (s : State) : s.threadSees.ser = s.ser := by rw [threadSees_eq]; rfl
@[simp] theorem threadSees_dout (s : State) : s.threadSees.dout = s.dout := by rw [threadSees_eq]; rfl
@[simp] theorem threadSees_line (s : State) : s.threadSees.line = s.line := by rw [threadSees_eq]; rfl
@[simp] theorem threadSees_echo (s : State) : s.threadSees.echo = s.echo := by rw [threadSees_eq]; rfl
@[simp] theorem threadSees_draws (s : State) : s.threadSees.draws = s.draws := by rw [threadSees_eq]; rfl
@[simp] theorem threadSees_busy (s : State) : s.threadSees.busy = s.busy := by rw [threadSees_eq]; rfl

theorem threadSees_nil {s : State} (h : s.agenda = []) : s.threadSees = s := by
  unfold State.threadSees
  rw [h]

theorem threadNext_nil {s : State} (h : s.agenda = []) : s.threadNext = true := by
  unfold State.threadNext
  rw [h]

/-! ## The moves by the head of the schedule -/

theorem step_thread {s : State} (h : s.threadNext = true) : step s = threadStep s.threadSees := by
  unfold State.threadNext at h
  unfold step nextMove State.threadSees
  split <;> simp_all

theorem step_byte {s : State} {b : Byte} {rest : List Event} (ha : s.agenda = .byte b :: rest)
    (hr : s.rxReady = true) : step s = .next (rxShift b (s.setAgenda rest)) := by
  unfold step nextMove
  simp [ha, hr]

theorem step_tick {s : State} {rest : List Event} (ha : s.agenda = .tick :: rest) :
    step s = takeTick (s.setAgenda rest) := by
  unfold step nextMove
  simp [ha]

theorem step_rst {s : State} {rest : List Event} (ha : s.agenda = .rst :: rest) :
    step s = .next (restart (s.setAgenda rest)) := by
  unfold step nextMove
  simp [ha]

/-- Whose move comes next. -/
theorem move_cases (s : State) :
    s.threadNext = true ∨ (∃ b rest, s.agenda = .byte b :: rest ∧ s.rxReady = true) ∨
    (∃ rest, s.agenda = .tick :: rest) ∨ (∃ rest, s.agenda = .rst :: rest) := by
  unfold State.threadNext
  split
  · exact .inl rfl
  · exact .inl rfl
  · rename_i b rest ha
    cases hr : s.rxReady
    · exact .inl rfl
    · exact .inr (.inl ⟨b, rest, ha, rfl⟩)
  · rename_i rest ha
    exact .inr (.inr (.inl ⟨rest, ha⟩))
  · rename_i rest ha
    exact .inr (.inr (.inr ⟨rest, ha⟩))

/-! ## The thread -/

theorem threadStep_busy {s : State} (h : s.busy = true) : threadStep s = unitStep s := by
  unfold threadStep
  simp [h]

theorem threadStep_drain {s : State} (h : s.busy = false) (hm : s.ms = .drain) : threadStep s = drain s := by
  unfold threadStep mainStep
  simp [h, hm]

theorem threadStep_gen {s : State} {q : List ByteWrite} (h : s.busy = false) (hm : s.ms = .gen q) :
    threadStep s = genStep q s := by
  unfold threadStep mainStep
  simp [h, hm]

theorem busy_eq_false {s : State} : s.busy = false ↔ s.ser.state = .idle := by
  unfold State.busy
  simp

theorem busy_eq_true {s : State} : s.busy = true ↔ s.ser.state ≠ .idle := by
  unfold State.busy
  simp

/-! ## The decode event touches the window and the echo -/

theorem decodeEvent_eq (s : State) :
    decodeEvent s = (s.setRxwin 0#24).setEcho
      (if s.params.echoEnable then s.echo ++ [s.rxwin.oldest, s.rxwin.middle] else s.echo) := by
  unfold decodeEvent
  rw [emitEcho_eq]
  rfl

@[simp] theorem decodeEvent_params (s : State) : (decodeEvent s).params = s.params := by rw [decodeEvent_eq]; rfl
@[simp] theorem decodeEvent_cfg (s : State) : (decodeEvent s).cfg = s.cfg := by rw [decodeEvent_eq]; rfl
@[simp] theorem decodeEvent_time (s : State) : (decodeEvent s).time = s.time := by rw [decodeEvent_eq]; rfl
@[simp] theorem decodeEvent_rxwin (s : State) : (decodeEvent s).rxwin = 0#24 := by rw [decodeEvent_eq]; rfl
@[simp] theorem decodeEvent_fb (s : State) : (decodeEvent s).fb = s.fb := by rw [decodeEvent_eq]; rfl
@[simp] theorem decodeEvent_ms (s : State) : (decodeEvent s).ms = s.ms := by rw [decodeEvent_eq]; rfl
@[simp] theorem decodeEvent_ser (s : State) : (decodeEvent s).ser = s.ser := by rw [decodeEvent_eq]; rfl
@[simp] theorem decodeEvent_dout (s : State) : (decodeEvent s).dout = s.dout := by rw [decodeEvent_eq]; rfl
@[simp] theorem decodeEvent_line (s : State) : (decodeEvent s).line = s.line := by rw [decodeEvent_eq]; rfl
@[simp] theorem decodeEvent_agenda (s : State) : (decodeEvent s).agenda = s.agenda := by rw [decodeEvent_eq]; rfl
@[simp] theorem decodeEvent_draws (s : State) : (decodeEvent s).draws = s.draws := by rw [decodeEvent_eq]; rfl

theorem decodeEvent_echo (s : State) : (decodeEvent s).echo =
    if s.params.echoEnable then s.echo ++ [s.rxwin.oldest, s.rxwin.middle] else s.echo := by
  rw [decodeEvent_eq]
  rfl

/-! ## The commands -/

/-- Everything a command can do, the same way in every state: every command but RESET writes one byte of one register, MODE
also zeroes the phase, and RESET restarts (40_commands.md R81 to R91). -/
theorem exec_uniform (i : Instr) :
    (restartsSequencer i = true ∧ ∀ s, exec i s = .next (restart s)) ∨
    (restartsSequencer i = false ∧ i.opcode ≠ 0x03#8 ∧ ∃ r, ∀ s, exec i s = .next (writeReg r i.parameter s)) ∨
    (restartsSequencer i = false ∧ i.opcode = 0x03#8 ∧
      ∀ s, exec i s = .next ((writeReg .mode i.parameter s).setTime 0#16)) := by
  cases i with
  | reset par => exact .inl ⟨rfl, fun s => rfl⟩
  | mode par => exact .inr (.inr ⟨rfl, rfl, fun s => rfl⟩)
  | enable par => exact .inr (.inl ⟨rfl, by simp [Instr.opcode], .enabled, fun s => rfl⟩)
  | bright par => exact .inr (.inl ⟨rfl, by simp [Instr.opcode], .brightness, fun s => rfl⟩)
  | color par => exact .inr (.inl ⟨rfl, by simp [Instr.opcode], .color, fun s => rfl⟩)
  | dir par => exact .inr (.inl ⟨rfl, by simp [Instr.opcode], .direction, fun s => rfl⟩)
  | count par => exact .inr (.inl ⟨rfl, by simp [Instr.opcode], .count, fun s => rfl⟩)
  | spdh par => exact .inr (.inl ⟨rfl, by simp [Instr.opcode], .speedHigh, fun s => rfl⟩)
  | spdl par => exact .inr (.inl ⟨rfl, by simp [Instr.opcode], .speedLow, fun s => rfl⟩)
  | regh par => exact .inr (.inl ⟨rfl, by simp [Instr.opcode], .progressHigh, fun s => rfl⟩)
  | regl par => exact .inr (.inl ⟨rfl, by simp [Instr.opcode], .progressLow, fun s => rfl⟩)

/-- The cases of a command in one state. -/
theorem exec_cases (i : Instr) (s : State) :
    (restartsSequencer i = true ∧ exec i s = .next (restart s)) ∨
    (restartsSequencer i = false ∧ ∃ r, exec i s = .next (writeReg r i.parameter s) ∧ i.opcode ≠ 0x03#8) ∨
    (restartsSequencer i = false ∧ exec i s = .next ((writeReg .mode i.parameter s).setTime 0#16) ∧ i.opcode = 0x03#8) := by
  rcases exec_uniform i with ⟨hr, he⟩ | ⟨hr, ho, r, he⟩ | ⟨hr, ho, he⟩
  · exact .inl ⟨hr, he s⟩
  · exact .inr (.inl ⟨hr, r, he s, ho⟩)
  · exact .inr (.inr ⟨hr, he s, ho⟩)

/-- What a command leaves as it was, when it is not RESET. -/
theorem exec_frame {i : Instr} {s t : State} (hi : restartsSequencer i = false) (h : exec i s = .next t) :
    t.params = s.params ∧ t.rxwin = s.rxwin ∧ t.fb = s.fb ∧ t.ms = s.ms ∧ t.ser = s.ser ∧ t.dout = s.dout ∧
    t.line = s.line ∧ t.echo = s.echo ∧ t.agenda = s.agenda ∧ t.draws = s.draws := by
  rcases exec_cases i s with ⟨hr, -⟩ | ⟨-, r, he, -⟩ | ⟨-, he, -⟩
  · rw [hr] at hi
    cases hi
  · rw [he] at h
    cases h
    exact ⟨rfl, rfl, rfl, rfl, rfl, rfl, rfl, rfl, rfl, rfl⟩
  · rw [he] at h
    cases h
    exact ⟨rfl, rfl, rfl, rfl, rfl, rfl, rfl, rfl, rfl, rfl⟩

/-- A command of the table always completes. -/
theorem exec_completes (i : Instr) (s : State) : ∃ t, exec i s = .next t := by
  rcases exec_cases i s with ⟨-, h⟩ | ⟨-, r, h, -⟩ | ⟨-, h, -⟩ <;> exact ⟨_, h⟩

/-! ## Everything a Drain can do -/

/-- The three things a `Drain` can do (40_commands.md R80). -/
theorem drain_cases (s : State) :
    (recognised s.rxwin = false ∧ drain s = .next (startCycle s)) ∨
    (recognised s.rxwin = true ∧ 0x0C ≤ s.rxwin.oldest.toNat ∧ drain s = .next (startCycle (decodeEvent s))) ∨
    (recognised s.rxwin = true ∧ ∃ i u, decodeWindow s.rxwin = .ok i ∧ i.opcode = s.rxwin.oldest ∧
      i.parameter = s.rxwin.middle ∧ exec i (decodeEvent s) = .next u ∧
      drain s = .next (if restartsSequencer i then u else startCycle u)) := by
  unfold drain
  cases hr : recognised s.rxwin with
  | false => exact .inl ⟨rfl, rfl⟩
  | true =>
    rcases decodeWindow_recognised hr with ⟨i, hd, ho, hp⟩ | ⟨hd, hop⟩
    · obtain ⟨u, hu⟩ := exec_completes i (decodeEvent s)
      refine .inr (.inr ⟨rfl, i, u, hd, ho, hp, hu, ?_⟩)
      simp [hd, applyCommand, hu]
    · exact .inr (.inl ⟨rfl, hop, by simp [hd]⟩)

theorem drain_completes (s : State) : ∃ t, drain s = .next t := by
  rcases drain_cases s with ⟨-, h⟩ | ⟨-, -, h⟩ | ⟨-, i, u, -, -, -, -, h⟩ <;> exact ⟨_, h⟩

/-! ## Everything a step can do -/

/-- The ways a step can answer the next state `t`, with what holds of the state before and what `t` is. -/
inductive Move (s t : State) : Prop where
  /-- A byte shifted into the window. -/
  | byte (b : Byte) (rest : List Event) (ha : s.agenda = .byte b :: rest) (hr : s.rxReady = true)
      (ht : t = rxShift b (s.setAgenda rest))
  /-- The `rst` port. -/
  | rst (rest : List Event) (ha : s.agenda = .rst :: rest) (ht : t = restart (s.setAgenda rest))
  /-- A tick taken. -/
  | tick (rest : List Event) (ha : s.agenda = .tick :: rest) (hb : s.busy = false) (ho : s.overCapacity = false)
      (l : Bool) (hl : lineLevel (s.setSer (serializerStart (capturedEnable s) s.cfg.pixelCount)) = some l)
      (ht : t = (((s.setAgenda rest).setSer (serializerStart (capturedEnable s) s.cfg.pixelCount)).setDraws
        (s.draws + captureDraws s)).setDout l)
  /-- A unit of a transmission. -/
  | unit (hn : s.threadNext = true) (hb : s.busy = true) (ht : unitStep s.threadSees = .next t)
  /-- A `Drain` that finds no command. -/
  | noCommand (hn : s.threadNext = true) (hb : s.busy = false) (hm : s.ms = .drain) (hr : recognised s.rxwin = false)
      (ht : t = startCycle s.threadSees)
  /-- A `Drain` of an opcode outside the table. -/
  | unknown (hn : s.threadNext = true) (hb : s.busy = false) (hm : s.ms = .drain) (hr : recognised s.rxwin = true)
      (ho : 0x0C ≤ s.rxwin.oldest.toNat) (ht : t = startCycle (decodeEvent s.threadSees))
  /-- A `Drain` of a command of the table other than RESET. -/
  | command (hn : s.threadNext = true) (hb : s.busy = false) (hm : s.ms = .drain) (hr : recognised s.rxwin = true)
      (i : Instr) (hd : decodeWindow s.rxwin = .ok i) (hi : restartsSequencer i = false) (u : State)
      (hu : exec i (decodeEvent s.threadSees) = .next u) (ht : t = startCycle u)
  /-- A `Drain` of RESET. -/
  | reset (hn : s.threadNext = true) (hb : s.busy = false) (hm : s.ms = .drain) (hr : recognised s.rxwin = true)
      (i : Instr) (hd : decodeWindow s.rxwin = .ok i) (hi : restartsSequencer i = true)
      (ht : t = restart (decodeEvent s.threadSees))
  /-- One byte write of a generation cycle. -/
  | write (hn : s.threadNext = true) (hb : s.busy = false) (ho : s.overCapacity = false) (w : ByteWrite)
      (q : List ByteWrite) (hm : s.ms = .gen (w :: q)) (hw : w.addr < s.fbSize)
      (ht : t = (s.threadSees.setFb (Memory.put s.fb w.addr w.val)).setMs (.gen q))
  /-- The phase advance at the end of a cycle. -/
  | advance (hn : s.threadNext = true) (hb : s.busy = false) (ho : s.overCapacity = false) (hm : s.ms = .gen [])
      (ht : t = endCycle s.threadSees)

/-- Everything a step that answers a next state can have done. -/
theorem move_of_step {s t : State} (h : step s = .next t) : Move s t := by
  rcases move_cases s with hn | ⟨b, rest, ha, hr⟩ | ⟨rest, ha⟩ | ⟨rest, ha⟩
  · rw [step_thread hn] at h
    cases hb : s.busy with
    | true =>
      rw [threadStep_busy (by simpa using hb)] at h
      exact .unit hn hb h
    | false =>
      have hb' : s.threadSees.busy = false := by simpa using hb
      cases hm : s.ms with
      | drain =>
        rw [threadStep_drain hb' (by simpa using hm)] at h
        rcases drain_cases s.threadSees with ⟨hr, hd⟩ | ⟨hr, ho, hd⟩ | ⟨hr, i, u, hi, -, -, hu, hd⟩
        · rw [hd] at h
          cases h
          exact .noCommand hn hb hm (by simpa using hr) rfl
        · rw [hd] at h
          cases h
          exact .unknown hn hb hm (by simpa using hr) (by simpa using ho) rfl
        · rw [hd] at h
          simp only [threadSees_rxwin] at hr hi
          cases hx : restartsSequencer i with
          | true =>
            rcases exec_cases i (decodeEvent s.threadSees) with ⟨-, he⟩ | ⟨hf, -⟩ | ⟨hf, -⟩
            · rw [he] at hu
              cases hu
              simp only [hx, if_true] at h
              cases h
              exact .reset hn hb hm hr i hi hx rfl
            · rw [hx] at hf
              cases hf
            · rw [hx] at hf
              cases hf
          | false =>
            simp only [hx] at h
            cases h
            exact .command hn hb hm hr i hi hx u hu rfl
      | gen q =>
        rw [threadStep_gen hb' (by simpa using hm)] at h
        obtain ⟨ho, ⟨rfl, rfl⟩ | ⟨w, rest, rfl, hw, rfl⟩⟩ := genStep_eq_next h
        · exact .advance hn hb (by simpa [State.overCapacity] using ho) hm rfl
        · exact .write hn hb (by simpa [State.overCapacity] using ho) w rest hm
            (by simpa [State.fbSize] using hw) (by simp)
  · rw [step_byte ha hr] at h
    cases h
    exact .byte b rest ha hr rfl
  · rw [step_tick ha] at h
    obtain ⟨hb, ho, l, hl, ht⟩ := takeTick_eq_next h
    exact .tick rest ha hb ho l hl ht
  · rw [step_rst ha] at h
    cases h
    exact .rst rest ha rfl

end Sys2Proof.Machine
end

