-- ==== Sys2Proof/WellFormed.lean ====
section
/-! DEFINITION. When a command is one a host may send: its parameter lies in the domain the opcode table gives
(30_encoding.md R65, 70_reset_and_hazards.md R183, R189). -/

namespace Sys2Proof

/-- The parameter domains of 30_encoding.md R65. A command outside them is ill-formed, which is the HOST's
fault and no reason to stop: it is decoded, echoed and applied like any other (40_commands.md R93), so nothing of the
machine consults this check (log 20). -/
def Instr.wellFormed (capacity : Nat) : Instr → Bool
  | .enable par => decide (par.toNat ≤ 1)
  | .bright par => decide (par.toNat ≤ 100)
  | .mode par => decide (par.toNat ≤ 4)
  | .color par => decide (par.toNat ≤ 2)
  | .dir par => decide (par.toNat ≤ 1)
  | .count par => decide (par.toNat ≤ capacity)
  | .spdh _ => true
  | .spdl _ => true
  | .reset _ => true
  | .regh _ => true
  | .regl _ => true

end Sys2Proof
end

