-- ==== Sys2Proof/Tests/Slice0.lean ====
section
/-! SUPPORT. The model's own tests: the well-formedness smoke, the decoding of written words, one or two small tests for
each command, the generator and the serializer against the vectors of 95_test_vectors.md, and for each statement with
hypotheses a witness that meets them. Every expected value comes from spec/, by the rule or vector named. -/

namespace Sys2Proof.Tests

open Sys2Proof Sys2Proof.Machine

/-! ## Helpers -/

/-- The reset state of a block of `n` pixels, the other parameters as in 95_test_vectors.md section 0. -/
def block (n : Nat) : State := State.resetWith { Config.exampleParams with capacity := n }

/-- The state with three bytes in the window. -/
def withWindow (s : State) (a b c : Byte) : State := s.setRxwin (Window.ofBytes a b c)

/-- A step that goes on to a state with a property. -/
def after (r : StepResult) (p : State → Bool) : Bool :=
  match r with
  | .next t => p t
  | .fault _ => false
  | .refused _ => false

/-- A serializer in the middle of the frame of two pixels. -/
def midFrame : Serializer := ⟨.shift, true, 2#8, 1#8, 2, 0, 2, 0⟩

/-! ## Well-formedness: each check refuses an ill-formed term and admits the boundary (30_encoding.md R65) -/

theorem test_wellFormed_refuses_enable_two : (Instr.enable 2#8).wellFormed 80 = false := by decide
theorem test_wellFormed_refuses_bright_101 : (Instr.bright 101#8).wellFormed 80 = false := by decide
theorem test_wellFormed_refuses_mode_five : (Instr.mode 5#8).wellFormed 80 = false := by decide
theorem test_wellFormed_refuses_color_three : (Instr.color 3#8).wellFormed 80 = false := by decide
theorem test_wellFormed_refuses_dir_two : (Instr.dir 2#8).wellFormed 80 = false := by decide
theorem test_wellFormed_refuses_count_81 : (Instr.count 81#8).wellFormed 80 = false := by decide
theorem test_wellFormed_admits_the_boundaries :
    (Instr.enable 1#8).wellFormed 80 = true ∧ (Instr.bright 100#8).wellFormed 80 = true ∧
    (Instr.mode 4#8).wellFormed 80 = true ∧ (Instr.color 2#8).wellFormed 80 = true ∧
    (Instr.dir 1#8).wellFormed 80 = true ∧ (Instr.count 80#8).wellFormed 80 = true ∧
    (Instr.spdh 255#8).wellFormed 80 = true ∧ (Instr.reset 0xA5#8).wellFormed 80 = true := by decide

/-! ## Decoding: words written out bit by bit, opcode, parameter, sync (30_encoding.md R60, R65) -/

theorem test_decode_enable : decodeWindow 0b000000010000000111111111#24 = .ok (.enable 0b00000001#8) := by decide
theorem test_decode_bright : decodeWindow 0b000000100011001011111111#24 = .ok (.bright 0b00110010#8) := by decide
theorem test_decode_mode : decodeWindow 0b000000110000001011111111#24 = .ok (.mode 0b00000010#8) := by decide
theorem test_decode_color : decodeWindow 0b000001000000000011111111#24 = .ok (.color 0b00000000#8) := by decide
theorem test_decode_dir : decodeWindow 0b000001010000000111111111#24 = .ok (.dir 0b00000001#8) := by decide
theorem test_decode_count : decodeWindow 0b000001100000101011111111#24 = .ok (.count 0b00001010#8) := by decide
theorem test_decode_spdh : decodeWindow 0b000001111111111111111111#24 = .ok (.spdh 0b11111111#8) := by decide
theorem test_decode_spdl : decodeWindow 0b000010001000000011111111#24 = .ok (.spdl 0b10000000#8) := by decide
theorem test_decode_reset : decodeWindow 0b000010011010010111111111#24 = .ok (.reset 0b10100101#8) := by decide
theorem test_decode_regh : decodeWindow 0b000010100000001011111111#24 = .ok (.regh 0b00000010#8) := by decide
theorem test_decode_regl : decodeWindow 0b000010111000000011111111#24 = .ok (.regl 0b10000000#8) := by decide

/-- The three bytes in order of arrival, with the byte after them left over (20_memory.md R42 a). -/
theorem test_decode_bytes :
    decodeBytes [0x06#8, 0x02#8, 0xFF#8, 0x02#8] = .ok (.count 2#8, [0x02#8]) ∧
    decodeBytes [0x06#8, 0x02#8] = .error .tooShort := by decide

/-- The words that are no command (30_encoding.md R66; vectors DEC-4, DEC-5, DEC-15). -/
theorem test_decode_rejects :
    decodeWindow 0x0005FF#24 = .error .opcodeZero ∧ decodeWindow 0x010203#24 = .error .notSync ∧
    decodeWindow 0x0C05FF#24 = .error (.reservedOpcode 0x0C#8 0x05#8) ∧
    decodeWindow 0xFFFFFF#24 = .error (.reservedOpcode 0xFF#8 0xFF#8) := by decide

/-- The host's two entries: a table word, and the step that runs it first after reset. -/
theorem test_table_word : decodeTableWord 24 0x0300FF = some (.mode 0#8) := by decide
theorem test_fetch_word : after (step (State.reset.withFetchWord 24 0x0632FF))
    (fun t => t.cfg.pixelCount == 0x32#8 && t.echo == [0x06#8, 0x32#8]) = true := by decide

/-- Vector DEC-7: a merge is decoded in the 0xFF corner. -/
theorem test_dec7 :
    ([0x01#8, 0x01#8, 0x07#8, 0xFF#8].foldl Window.shiftIn 0#24) = 0x0107FF#24 ∧ recognised 0x0107FF#24 = true := by decide

/-- 30_encoding.md R70: `SPEED 0x0100` and `PROGRESS 0x0280` of programs P2 and P3. -/
theorem test_assembler :
    assemble (asmSpeed 0x0100#16) = [0x07#8, 0x01#8, 0xFF#8, 0x08#8, 0x00#8, 0xFF#8] ∧
    assemble (asmProgress 0x0280#16) = [0x0A#8, 0x02#8, 0xFF#8, 0x0B#8, 0x80#8, 0xFF#8] ∧
    assemble [asmReset] = [0x09#8, 0x00#8, 0xFF#8] := by decide

/-- The named values of R70, against the encodings of programs P1 to P3 and P7. -/
theorem test_assembler_named_values :
    assemble [.mode asmRainbow, .mode asmProgressMode, .color asmRed, .color asmBlue, .dir asmRev, .enable asmOff, .enable asmOn] =
      [0x03#8, 0x02#8, 0xFF#8, 0x03#8, 0x04#8, 0xFF#8, 0x04#8, 0x00#8, 0xFF#8, 0x04#8, 0x01#8, 0xFF#8,
        0x05#8, 0x01#8, 0xFF#8, 0x01#8, 0x00#8, 0xFF#8, 0x01#8, 0x01#8, 0xFF#8] ∧
    (asmSolid = 0#8 ∧ asmPulse = 1#8 ∧ asmMpulse = 3#8 ∧ asmGreen = 2#8 ∧ asmFwd = 0#8) := by decide

/-! ## Commands: vectors CMD-1 to CMD-18 (each from the reset state, one `Drain`) -/

theorem test_cmd1_enable : after (step (withWindow State.reset 0x01#8 0x00#8 0xFF#8))
    (fun t => t.cfg.enabled == 0#8 && t.echo == [0x01#8, 0x00#8] && t.rxwin == 0#24) = true := by decide
theorem test_cmd2_bright : after (step (withWindow State.reset 0x02#8 0x32#8 0xFF#8))
    (fun t => t.cfg.brightnessPercent == 50#8) = true := by decide
theorem test_cmd17_bright_out_of_domain : after (step (withWindow State.reset 0x02#8 0x65#8 0xFF#8))
    (fun t => t.cfg.brightnessPercent == 101#8) = true := by decide
theorem test_cmd3_mode : after (step (withWindow State.reset 0x03#8 0x02#8 0xFF#8))
    (fun t => t.cfg.mode == 2#8 && t.time == 0#16) = true := by decide
theorem test_cmd13_mode_again : after (step (withWindow (State.reset.setTime 0x1234#16) 0x03#8 0x00#8 0xFF#8))
    (fun t => t.cfg.mode == 0#8 && t.time == 0#16) = true := by decide
theorem test_cmd4_color : after (step (withWindow State.reset 0x04#8 0x00#8 0xFF#8))
    (fun t => t.cfg.colorChannel == 0#8) = true := by decide
theorem test_cmd5_dir : after (step (withWindow (State.reset.setTime 7#16) 0x05#8 0x01#8 0xFF#8))
    (fun t => t.cfg.direction == 1#8 && t.time == 7#16) = true := by decide
theorem test_cmd6_count : after (step (withWindow State.reset 0x06#8 0x0A#8 0xFF#8))
    (fun t => t.cfg.pixelCount == 10#8) = true := by decide
theorem test_cmd18_count_over_capacity : after (step (withWindow State.reset 0x06#8 0x51#8 0xFF#8))
    (fun t => t.cfg.pixelCount == 81#8) = true := by decide
theorem test_cmd7_spdh : after (step (withWindow State.reset 0x07#8 0x01#8 0xFF#8))
    (fun t => t.cfg.speed == 0x0100#16) = true := by decide
theorem test_cmd14_spdl_keeps_the_high_byte :
    after (step (withWindow (State.reset.setCfg { State.reset.cfg with speedHigh := 0x12#8 }) 0x08#8 0x34#8 0xFF#8))
      (fun t => t.cfg.speed == 0x1234#16) = true := by decide
theorem test_cmd16_reset : after (step (withWindow (State.reset.setTime 9#16) 0x09#8 0xA5#8 0xFF#8))
    (fun t => t.time == 0#16 && t.cfg == State.reset.cfg && t.ms == .drain && t.echo == [0x09#8, 0xA5#8]) = true := by decide
theorem test_cmd15_regh_keeps_the_low_byte :
    after (step (withWindow (State.reset.setCfg { State.reset.cfg with progressRegister := 0x0280#16 }) 0x0A#8 0x05#8 0xFF#8))
      (fun t => t.cfg.progressRegister == 0x0580#16) = true := by decide
theorem test_cmd11_regl : after (step (withWindow State.reset 0x0B#8 0x80#8 0xFF#8))
    (fun t => t.cfg.progressRegister == 0x0080#16) = true := by decide
theorem test_cmd12_unknown : after (step (withWindow State.reset 0x0C#8 0x05#8 0xFF#8))
    (fun t => t.cfg == State.reset.cfg && t.echo == [0x0C#8, 0x05#8] && t.rxwin == 0#24) = true := by decide

/-! ## The generator: vectors of sections 2.3 to 2.9 -/

theorem test_scale : scale 255#8 99#8 = 252#8 ∧ scale 255#8 50#8 = 127#8 ∧ scale 200#8 75#8 = 150#8 ∧ scale 3#8 33#8 = 0#8 := by
  decide
theorem test_place : place 127#8 .red = ⟨127#8, 0#8, 0#8⟩ ∧ place 127#8 .blue = ⟨0#8, 0#8, 127#8⟩ ∧
    place 127#8 .green = ⟨0#8, 127#8, 0#8⟩ ∧ channelOf 1#8 = some .blue ∧ channelOf 2#8 = some .green := by decide
theorem test_genp : pulse 0x0100#16 = 2#8 ∧ pulse 0x7FFF#16 = 254#8 ∧ pulse 0x8000#16 = 255#8 ∧ pulse 0xBF00#16 = 129#8 ∧
    pulse 0xFFFF#16 = 1#8 := by decide
theorem test_genm : mpulse 0x8100#16 = 4#8 ∧ mpulse 0xA000#16 = 128#8 ∧ mpulse 0xBFFF#16 = 252#8 ∧ mpulse 0xC000#16 = 255#8 ∧
    mpulse 0xC800#16 = 223#8 ∧ mpulse 0xFF00#16 = 3#8 := by decide
theorem test_genr_rising : rainbow 0x0029#16 = ⟨255#8, 0#8, 0#8⟩ ∧ rainbow 0x002A#16 = ⟨255#8, 1#8, 0#8⟩ ∧
    rainbow 0x3000#16 = ⟨219#8, 255#8, 0#8⟩ ∧ rainbow 0x6000#16 = ⟨0#8, 255#8, 73#8⟩ := by decide
theorem test_genr_falling : rainbow 0x9000#16 = ⟨0#8, 146#8, 255#8⟩ ∧ rainbow 0xB000#16 = ⟨48#8, 0#8, 255#8⟩ ∧
    rainbow 0xE000#16 = ⟨255#8, 0#8, 170#8⟩ ∧ rainbow 0xFC00#16 = ⟨255#8, 0#8, 0#8⟩ := by decide
theorem test_ph3 : (List.range 4).map (phase 0x1234#16 (phaseStep Config.rainbowStep .reverse) 4) =
    [0x0634#16, 0x0A34#16, 0x0E34#16, 0x1234#16] := by decide
theorem test_ph7 : phase 0#16 (phaseStep Config.rainbowStep .forward) 80 0 = 0x3C00#16 := by decide
theorem test_ph10 : (List.range 3).map (phase 0#16 (phaseStep Config.movingPulseStep .reverse) 3) =
    [0xF000#16, 0xF800#16, 0#16] := by decide

/-- The registers of a row of section 2.8. -/
def gc (mode n b ch d : Byte) (speed : Word16) : Cfg :=
  { State.reset.cfg with
    mode := mode, pixelCount := n, brightnessPercent := b, colorChannel := ch, direction := d,
    speedHigh := hi8 speed, speedLow := lo8 speed }

theorem test_gc2_writes : writes (gc 0#8 2#8 50#8 0#8 0#8 0x0123#16) 0x0010#16 0 =
    [⟨0, 127#8⟩, ⟨1, 0#8⟩, ⟨2, 0#8⟩, ⟨3, 127#8⟩, ⟨4, 0#8⟩, ⟨5, 0#8⟩] := by decide
theorem test_gc8_pulse : frame (gc 1#8 2#8 50#8 1#8 0#8 0#16) 0x8000#16 0 =
    [(0, ⟨0#8, 0#8, 127#8⟩), (1, ⟨0#8, 0#8, 127#8⟩)] := by decide
theorem test_gc11_rainbow : frame (gc 2#8 4#8 100#8 9#8 1#8 0x0100#16) 0x0200#16 0 =
    [(0, ⟨255#8, 0#8, 36#8⟩), (1, ⟨255#8, 0#8, 12#8⟩), (2, ⟨255#8, 0#8, 0#8⟩), (3, ⟨255#8, 12#8, 0#8⟩)] := by decide
theorem test_gc13_movingPulse : frame (gc 3#8 4#8 100#8 1#8 0#8 0xC000#16) 0xC000#16 0 =
    [(0, ⟨0#8, 0#8, 159#8⟩), (1, ⟨0#8, 0#8, 191#8⟩), (2, ⟨0#8, 0#8, 223#8⟩), (3, ⟨0#8, 0#8, 255#8⟩)] := by decide
theorem test_gc13_phase_wraps : after
    (step (((block 4).setCfg (gc 3#8 4#8 100#8 1#8 0#8 0xC000#16)).setTime 0xC000#16 |>.setMs (.gen [])))
    (fun t => t.time == 0x8000#16 && t.ms == .drain) = true := by decide
theorem test_pb3 : frame { gc 4#8 10#8 50#8 0#8 0#8 0#16 with progressRegister := 0x0580#16 } 0#16 0 =
    [(0, ⟨127#8, 0#8, 0#8⟩), (1, ⟨127#8, 0#8, 0#8⟩), (2, ⟨64#8, 0#8, 0#8⟩)] := by decide
theorem test_pb4_pb9_write_nothing :
    frame { gc 4#8 10#8 50#8 0#8 0#8 0#16 with progressRegister := 0x0080#16 } 0#16 0 = [] ∧
    frame { gc 4#8 0#8 100#8 0#8 0#8 0#16 with progressRegister := 0xFF40#16 } 0#16 0 = [] := by decide
theorem test_pb5_no_partial_pixel :
    (frame { gc 4#8 3#8 50#8 0#8 0#8 0#16 with progressRegister := 0x0180#16 } 0#16 0).map Prod.fst = [0, 1, 2] := by decide

/-! ## The serializer: vectors SER-1, SER-6 and HZ-1 -/

/-- Vector SER-1: the 76 levels, `true` high. -/
theorem test_ser1_wave : frameWave 4 [⟨0x12#8, 0xA5#8, 0x80#8⟩] =
    [true, true, false, true, false, false, true, true, false, true, false, false] ++
    [true, false, false, true, true, false, true, false, false, true, true, false] ++
    [true, false, false, true, false, false, true, false, false, true, true, false] ++
    [true, false, false, true, false, false, true, true, false, true, false, false] ++
    [true, true, false, true, false, false, true, false, false, true, false, false] ++
    [true, false, false, true, false, false, true, false, false, true, false, false] ++
    [false, false, false, false] := by decide

/-- Vector SER-6: the third pixel is not sent. -/
theorem test_ser6_bits :
    framebits (sentPixels [(0, 1#8), (1, 2#8), (2, 3#8), (3, 4#8), (4, 5#8), (5, 6#8), (6, 7#8)] true 2) =
      bits8 2#8 ++ bits8 1#8 ++ bits8 3#8 ++ bits8 5#8 ++ bits8 4#8 ++ bits8 6#8 ∧
    bits8 0xA5#8 = [true, false, true, false, false, true, false, true] := by decide

/-- Vector HZ-1, k = 1: the torn pixel 0 is (255, 255, 0). -/
theorem test_hz1_torn_pixel : after
    (step ((((block 2).setCfg (gc 0#8 2#8 100#8 0#8 0#8 0#16)).setFb [(1, 255#8), (4, 255#8)]).setMs
      (.gen [⟨0, 255#8⟩, ⟨1, 0#8⟩])))
    (fun t => pixelAt t.fb 0 == ⟨255#8, 255#8, 0#8⟩ && pixelAt t.fb 1 == ⟨0#8, 255#8, 0#8⟩ && t.ms == .gen [⟨1, 0#8⟩]) = true := by
  decide

/-- 42_serializer.md R138: the last unit of the last pixel goes to LATCH and the line is low. -/
theorem test_last_unit_goes_to_latch : after (step ((block 2).setSer midFrame))
    (fun t => t.ser.state == .latch && !t.dout) = true := by decide

/-- The fault of vector CMD-18, at the first step of the cycle. -/
theorem test_cycle_over_capacity :
    step (((block 2).setCfg { (block 2).cfg with pixelCount := 3#8 }).setMs (.gen [⟨0, 1#8⟩])) = .fault .pixelCountOverCapacity := rfl

/-- 42_serializer.md R141. -/
theorem test_tick_overrun : step (((block 2).setSer midFrame).setAgenda [.tick]) = .fault .tickOverrun := rfl

/-! ## Witnesses: for each statement with hypotheses, states and operands that meet them -/

theorem wit_RecognitionPredicate : (0x01#8 : Byte) ≠ 0#8 ∧ (0xFF#8 : Byte) ≠ 0#8 := by decide

theorem wit_ByteShiftsIntoTheWindow_ready :
    let s := State.reset.setAgenda [.byte 5#8]
    s.agenda = .byte 5#8 :: [] ∧ ¬ (s.params.rxBackpressure = true ∧ recognised s.rxwin = true) := by decide

theorem wit_ByteShiftsIntoTheWindow_without_backpressure :
    let s := (withWindow (State.resetWith { Config.exampleParams with rxBackpressure := false }) 0x02#8 0x32#8 0xFF#8).setAgenda
      [.byte 0x04#8]
    s.agenda = .byte 0x04#8 :: [] ∧ ¬ (s.params.rxBackpressure = true ∧ recognised s.rxwin = true) ∧
      recognised s.rxwin = true := by decide

/-- Both clauses of the held byte at once. -/
theorem wit_ByteIsHeldUntilTheDrain :
    let s := (withWindow State.reset 0x01#8 0x00#8 0xFF#8).setAgenda [.byte 5#8]
    s.agenda = .byte 5#8 :: [] ∧ s.params.rxBackpressure = true ∧ recognised s.rxwin = true ∧ s.ser.state = .idle ∧
      s.ms = .drain ∧ ∃ t, step s = .next t := ⟨rfl, rfl, by decide, rfl, rfl, _, rfl⟩

theorem wit_CleanCommandIsRecognisedOnce : (0x01#8 : Byte) ≠ 0#8 ∧ (0xFF#8 : Byte) ≠ 0#8 := by decide

theorem wit_TruncatedCommandResynchronises :
    (0x05#8 : Byte) ≠ 0#8 ∧ (0x05#8 : Byte) ≠ 0xFF#8 ∧ (0x01#8 : Byte) ≠ 0xFF#8 ∧ (0xFE#8 : Byte) ≠ 0xFF#8 := by decide

theorem wit_MergedCommandCorners : (0x01#8 : Byte) ≠ 0#8 ∧ (0xFF#8 : Byte) ≠ 0#8 := by decide

theorem wit_TwoZeroBytesFlushTheWindow : (0x07#8 : Byte) ≠ 0#8 ∧ (0xFF#8 : Byte) ≠ 0#8 := by decide

theorem wit_StepRunsTheDecodedCommand :
    let s := withWindow State.reset 0x01#8 0x00#8 0xFF#8
    s.threadNext = true ∧ s.ser.state = .idle ∧ s.ms = .drain ∧ decodeWindow s.rxwin = .ok (.enable 0#8) := by decide

theorem wit_StepRunsTheDecodedCommand_reset :
    let s := withWindow State.reset 0x09#8 0xA5#8 0xFF#8
    s.threadNext = true ∧ s.ser.state = .idle ∧ s.ms = .drain ∧ decodeWindow s.rxwin = .ok (.reset 0xA5#8) := by decide

theorem wit_DrainWithoutCommandStartsACycle :
    State.reset.threadNext = true ∧ State.reset.ser.state = .idle ∧ State.reset.ms = .drain ∧
      recognised State.reset.rxwin = false := by decide

theorem wit_UnknownOpcodeHasNoEffect_first :
    let s := withWindow State.reset 0x0C#8 0x05#8 0xFF#8
    s.threadNext = true ∧ s.ser.state = .idle ∧ s.ms = .drain ∧ s.rxwin = Window.ofBytes 0x0C#8 0x05#8 0xFF#8 ∧
      0x0C ≤ (0x0C#8 : Byte).toNat := by decide

theorem wit_UnknownOpcodeHasNoEffect_last :
    let s := withWindow State.reset 0xFF#8 0xFF#8 0xFF#8
    s.threadNext = true ∧ s.ser.state = .idle ∧ s.ms = .drain ∧ s.rxwin = Window.ofBytes 0xFF#8 0xFF#8 0xFF#8 ∧
      0x0C ≤ (0xFF#8 : Byte).toNat := by decide

theorem wit_EchoReportsEveryDecodeEvent :
    let s := withWindow State.reset 0x01#8 0x00#8 0xFF#8
    (∃ t, step s = .next t) ∧ s.params.echoEnable = true ∧ s.threadNext = true ∧ s.ser.state = .idle ∧ s.ms = .drain ∧
      recognised s.rxwin = true := ⟨⟨_, rfl⟩, by decide⟩

/-- Each of the ten clauses of the register commands' frame, with its next state. -/
theorem wit_RegisterCommandsFrame :
    (∃ t, exec (.enable 2#8) State.reset = .next t) ∧ (∃ t, exec (.bright 255#8) State.reset = .next t) ∧
    (∃ t, exec (.mode 255#8) State.reset = .next t) ∧ (∃ t, exec (.color 3#8) State.reset = .next t) ∧
    (∃ t, exec (.dir 2#8) State.reset = .next t) ∧ (∃ t, exec (.count 255#8) State.reset = .next t) ∧
    (∃ t, exec (.spdh 255#8) State.reset = .next t) ∧ (∃ t, exec (.spdl 0#8) State.reset = .next t) ∧
    (∃ t, exec (.regh 0#8) State.reset = .next t) ∧ (∃ t, exec (.regl 255#8) State.reset = .next t) :=
  ⟨⟨_, rfl⟩, ⟨_, rfl⟩, ⟨_, rfl⟩, ⟨_, rfl⟩, ⟨_, rfl⟩, ⟨_, rfl⟩, ⟨_, rfl⟩, ⟨_, rfl⟩, ⟨_, rfl⟩, ⟨_, rfl⟩⟩

theorem wit_DrainAlwaysCompletes :
    let s := withWindow State.reset 0x06#8 0xFF#8 0xFF#8
    s.threadNext = true ∧ s.ser.state = .idle ∧ s.ms = .drain := by decide

theorem wit_ScaleIsTruncatedPercentage :
    (100#8 : Byte).toNat ≤ 100 ∧ (0#8 : Byte).toNat ≤ (100#8 : Byte).toNat ∧ (100#8 : Byte).toNat ≤ (100#8 : Byte).toNat := by
  decide

theorem wit_PhasesAreAnchoredAtTheLastPixel : 0 < 1 ∧ 79 < 80 ∧ 78 + 1 < 80 ∧ 0 + 1 < 80 := by decide

theorem wit_PulseIsTheTriangle : (0x7FFF#16 : Word16).toNat < 0x8000 ∧ 0x8000 ≤ (0x8000#16 : Word16).toNat := by decide

theorem wit_MovingPulseIsTheWindow :
    (0x7FFF#16 : Word16).toNat < 0x8000 ∧ (0x8000 ≤ (0xBFFF#16 : Word16).toNat ∧ (0xBFFF#16 : Word16).toNat < 0xC000) ∧
      0xC000 ≤ (0xC000#16 : Word16).toNat := by decide

/-- Each of the six segments at its last phase, and the clamp at its first. -/
theorem wit_RainbowRotatesTheHue :
    (0x29FF#16 : Word16).toNat / 42 = 0 * 256 + 255 ∧ (0x53FF#16 : Word16).toNat / 42 = 1 * 256 + 255 ∧
    (0x7DFF#16 : Word16).toNat / 42 = 2 * 256 + 255 ∧ (0xA7FF#16 : Word16).toNat / 42 = 3 * 256 + 255 ∧
    (0xD1FF#16 : Word16).toNat / 42 = 4 * 256 + 255 ∧ (0xFBFF#16 : Word16).toNat / 42 = 5 * 256 + 255 ∧
    0xFC00 ≤ (0xFC00#16 : Word16).toNat := by decide

theorem wit_OutOfDomainColoursPaintTheSamePixels : (gc 4#8 2#8 255#8 3#8 2#8 0#16).mode.toNat ≤ 4 := by decide

/-- A state in the middle of a generation cycle, about to write the last byte of the frame buffer. -/
def midCycle : State := (block 2).setMs (.gen [⟨5, 9#8⟩])

theorem midCycle_inv : midCycle.Inv :=
  ⟨by decide, by decide, (by decide : writesWithin (3 * 2) [⟨5, 9#8⟩]), trivial, rfl⟩

theorem wit_GenStepWritesOneByte : midCycle.Inv ∧ midCycle.threadNext = true ∧ midCycle.ser.state = .idle ∧
    midCycle.ms = .gen (⟨5, 9#8⟩ :: []) ∧ midCycle.cfg.pixelCount.toNat ≤ midCycle.params.capacity :=
  ⟨midCycle_inv, by decide⟩

theorem wit_PhaseAdvancesAtTheEndOfTheCycle :
    let s := (block 2).setMs (.gen [])
    s.threadNext = true ∧ s.ser.state = .idle ∧ s.ms = .gen [] ∧ s.cfg.pixelCount.toNat ≤ s.params.capacity := by decide

theorem wit_CycleRunsToItsEnd : midCycle.Inv ∧ midCycle.agenda = [] ∧ midCycle.ser.state = .idle ∧
    midCycle.ms = .gen [⟨5, 9#8⟩] ∧ midCycle.cfg.pixelCount.toNat ≤ midCycle.params.capacity :=
  ⟨midCycle_inv, by decide⟩

/-- With any registers whose count is within the capacity, a block at rest is at the start of a free iteration. -/
theorem freeIteration_block (c : Cfg) (h : c.pixelCount.toNat ≤ 2) : ((block 2).setCfg c).freeIteration :=
  ⟨⟨(by decide : (block 2).params.wf), rfl, trivial, trivial, rfl⟩, rfl, rfl, rfl, rfl, h⟩

theorem wit_SolidCyclePaintsTheSelectedChannel (ch : Byte) :
    let s := (block 2).setCfg (gc 0#8 2#8 100#8 ch 0#8 1#16)
    s.freeIteration ∧ s.cfg.mode = 0#8 ∧ s.cfg.brightnessPercent.toNat ≤ 100 ∧ s.cfg.colorChannel = ch :=
  ⟨freeIteration_block _ (by show 2 ≤ 2; decide), rfl, (by show 100 ≤ 100; decide), rfl⟩

theorem wit_PulseCyclePaintsTheSharedPhase (ch : Byte) :
    let s := (block 2).setCfg (gc 1#8 2#8 100#8 ch 0#8 1#16)
    s.freeIteration ∧ s.cfg.mode = 1#8 ∧ s.cfg.brightnessPercent.toNat ≤ 100 ∧ s.cfg.colorChannel = ch :=
  ⟨freeIteration_block _ (by show 2 ≤ 2; decide), rfl, (by show 100 ≤ 100; decide), rfl⟩

theorem wit_RainbowCyclePaintsTheHueSweep (d : Byte) :
    let s := (block 2).setCfg (gc 2#8 2#8 100#8 9#8 d 1#16)
    s.freeIteration ∧ s.cfg.mode = 2#8 ∧ s.cfg.brightnessPercent.toNat ≤ 100 ∧ s.cfg.direction = d :=
  ⟨freeIteration_block _ (by show 2 ≤ 2; decide), rfl, (by show 100 ≤ 100; decide), rfl⟩

theorem wit_MovingPulseCyclePaintsTheWindow (ch d : Byte) :
    let s := (block 2).setCfg (gc 3#8 2#8 100#8 ch d 1#16)
    s.freeIteration ∧ s.cfg.mode = 3#8 ∧ s.cfg.brightnessPercent.toNat ≤ 100 ∧ s.cfg.colorChannel = ch ∧ s.cfg.direction = d :=
  ⟨freeIteration_block _ (by show 2 ≤ 2; decide), rfl, (by show 100 ≤ 100; decide), rfl, rfl⟩

/-- A bar that ends inside the strip (divisor 2), one that fills it (divisor 1) and one that is shorter than a pixel. -/
theorem wit_ProgressBarPaintsUpToTheBar (ch : Byte) (v : Word16)
    (h : v = 0x0280#16 ∨ v = 0x0180#16 ∨ v = 0xFF00#16) :
    let s := (block 2).setCfg { gc 4#8 2#8 100#8 ch 0#8 1#16 with progressRegister := v }
    s.freeIteration ∧ s.cfg.mode = 4#8 ∧ s.cfg.brightnessPercent.toNat ≤ 100 ∧
      s.cfg.progressRegister.extractLsb' 8 8 ≠ 0#8 ∧ s.cfg.colorChannel = ch :=
  ⟨freeIteration_block _ (by show 2 ≤ 2; decide), rfl, (by show 100 ≤ 100; decide),
    (by show v.extractLsb' 8 8 ≠ 0#8; rcases h with h | h | h <;> subst h <;> decide), rfl⟩

theorem wit_ProgressBarWithDivisorZeroWritesNothing :
    let s := (block 2).setCfg { gc 4#8 2#8 255#8 9#8 0#8 1#16 with progressRegister := 0x0080#16 }
    s.freeIteration ∧ s.cfg.mode = 4#8 ∧ s.cfg.progressRegister.extractLsb' 8 8 = 0#8 :=
  ⟨freeIteration_block _ (by decide), rfl, by decide⟩

theorem wit_EnableDoesNotGateTheGenerator :
    (block 2).threadNext = true ∧ (block 2).ser.state = .idle ∧ recognised (block 2).rxwin = false := by decide

theorem wit_DrainDoesNotReadTheFrameBuffer : (block 2).threadNext = true ∧ (block 2).ser.state = .idle ∧
    (block 2).ms = .drain ∧ ∃ t, step (block 2) = .next t := ⟨rfl, rfl, rfl, _, rfl⟩

/-- Both values of the enable, and both ends of the range of the count. -/
theorem wit_TickCapturesAndStarts :
    let s := ((block 2).setCfg { (block 2).cfg with enabled := 0#8, pixelCount := 0#8 }).setAgenda [.tick]
    let u := (block 2).setAgenda [.tick]
    (s.agenda = .tick :: [] ∧ s.ser.state = .idle ∧ s.cfg.pixelCount.toNat ≤ s.params.capacity ∧ s.cfg.enabled = 0#8) ∧
    (u.agenda = .tick :: [] ∧ u.ser.state = .idle ∧ u.cfg.pixelCount.toNat = u.params.capacity ∧ u.cfg.enabled = 1#8) := by
  decide

theorem wit_TickWhileBusyIsOverrun :
    let s := ((block 2).setSer midFrame).setAgenda [.tick]
    s.agenda = .tick :: [] ∧ s.ser.state ≠ .idle := by decide

/-- Both clauses: a step of a cycle, and a tick. -/
theorem wit_CountOverCapacityFaults :
    let s := ((block 2).setCfg { (block 2).cfg with pixelCount := 3#8 }).setMs (.gen [])
    let u := s.setAgenda [.tick]
    (s.ser.state = .idle ∧ s.params.capacity < s.cfg.pixelCount.toNat ∧ s.threadNext = true ∧ s.ms = .gen []) ∧
    (u.ser.state = .idle ∧ u.params.capacity < u.cfg.pixelCount.toNat ∧ u.agenda = .tick :: []) := by decide

/-- A frame of two pixels about to be sent, with any enable. -/
theorem aboutToSend_block (v : Byte) :
    (((block 2).setCfg { (block 2).cfg with enabled := v }).setAgenda [.tick]).aboutToSend :=
  ⟨⟨(by decide : (block 2).params.wf), rfl, trivial, trivial, rfl⟩, rfl, rfl, (by decide : 2 ≤ 2)⟩

theorem wit_TransmissionDrivesTheFrameWave : ((block 2).setAgenda [.tick]).aboutToSend := aboutToSend_block 1#8

/-- The empty frame too. -/
theorem wit_TransmissionDrivesTheFrameWave_empty :
    (((block 2).setCfg { (block 2).cfg with pixelCount := 0#8 }).setAgenda [.tick]).aboutToSend :=
  ⟨⟨by decide, by decide, trivial, trivial, rfl⟩, rfl, rfl, by decide⟩

theorem wit_PerUnitMachineRefinesTheAtomicTick : ((block 2).setAgenda [.tick]).aboutToSend := aboutToSend_block 1#8

theorem wit_DisabledTickSendsZeroBits :
    let s := ((block 2).setCfg { (block 2).cfg with enabled := 0#8 }).setAgenda [.tick]
    s.aboutToSend ∧ s.cfg.enabled = 0#8 := ⟨aboutToSend_block 0#8, rfl⟩

theorem wit_WireOrderIsGreenRedBlueMsbFirst :
    [Pixel.black, ⟨0x12#8, 0xA5#8, 0x80#8⟩][1]? = some ⟨0x12#8, 0xA5#8, 0x80#8⟩ ∧ 0 < 8 ∧ 7 < 8 := by decide

theorem wit_FrameWaveIsCellsAndALatch :
    [Pixel.black] ≠ [] ∧ (framebits [⟨0#8, 0#8, 1#8⟩])[23]? = some true ∧ (framebits [⟨0#8, 0#8, 1#8⟩])[0]? = some false := by
  decide

theorem wit_MainSequencerWaitsForTheSerializer :
    let s := ((block 2).setSer midFrame).setAgenda [.byte 5#8]
    s.ser.state ≠ .idle ∧ (∃ t, step s = .next t) ∧ ∀ rest, s.agenda ≠ .rst :: rest :=
  ⟨by decide, ⟨_, rfl⟩, by intro rest h; cases h⟩

theorem wit_TickAndByteCommute : (block 2).rxReady = true := by decide

theorem wit_ResetStateValues : ({ Config.exampleParams with capacity := 255 } : Config.Params).capacity ≤ 255 := by decide

theorem wit_InvariantHoldsAtReset : Config.exampleParams.wf ∧ ({ Config.exampleParams with capacity := 1 } : Config.Params).wf ∧
    ({ Config.exampleParams with capacity := 255, tLatchUnits := 1 } : Config.Params).wf := by decide

theorem wit_StepKeepsTheInvariant : midCycle.Inv ∧ ∃ t, step midCycle = .next t := ⟨midCycle_inv, _, rfl⟩

/-- A block in the middle of a frame, with the line at the level of its position. -/
theorem midFrame_inv : ((block 2).setSer midFrame).Inv :=
  ⟨by decide, by decide, trivial, (by decide : 1 < 2 ∧ 2 ≤ 2 ∧ 0 = 0), rfl⟩

/-- States that meet the invariant and stop: a tick while busy, and a cycle over capacity. -/
theorem wit_StepsStopExactlyOutsideTheContract :
    (let s := ((block 2).setSer midFrame).setAgenda [.tick]
     s.Inv ∧ s.tickNext = true ∧ s.ser.state ≠ .idle) ∧
    (let s := ((block 2).setCfg { (block 2).cfg with pixelCount := 3#8 }).setMs (.gen [])
     s.Inv ∧ s.params.capacity < s.cfg.pixelCount.toNat ∧ s.ser.state = .idle ∧ s.threadNext = true ∧ s.ms ≠ .drain) :=
  ⟨⟨⟨by decide, by decide, trivial, midFrame_inv.serializer, rfl⟩, by decide, by decide⟩,
    ⟨by decide, by decide, (by decide : writesWithin (3 * 3) []), trivial, rfl⟩, by decide, by decide, by decide, by decide⟩

theorem wit_RstPortRestartsAtAnyTime :
    let s := ((block 2).setSer midFrame).setAgenda [.rst]
    s.agenda = .rst :: [] ∧ s.ser.state ≠ .idle := by decide

theorem wit_OnlyDrainWritesTheRegisters :
    ∃ t, step (withWindow (block 2) 0x01#8 0x00#8 0xFF#8) = .next t ∧ t.cfg ≠ (withWindow (block 2) 0x01#8 0x00#8 0xFF#8).cfg :=
  ⟨_, rfl, by decide⟩

theorem wit_OnlyTheGeneratorWritesTheFrameBuffer :
    midCycle.Inv ∧ ∃ t, step midCycle = .next t ∧ Memory.get t.fb 5 ≠ Memory.get midCycle.fb 5 :=
  ⟨midCycle_inv, _, rfl, by decide⟩

theorem wit_OnlyAdvanceModeAndResetWriteThePhase :
    let s := ((block 2).setCfg (gc 0#8 2#8 100#8 0#8 0#8 1#16)).setMs (.gen [])
    ∃ t, step s = .next t ∧ t.time ≠ s.time := ⟨_, rfl, by decide⟩

theorem wit_OutputsOnlyGrow : ∃ t, step (block 2) = .next t := ⟨_, rfl⟩

theorem wit_QuiescentStateMovesOn : (block 2).quiescent = true ∧ (block 2).agenda = [] := by decide

end Sys2Proof.Tests
end

/-! PROOF. The statements of 10_state.md: the reset values, the speed view, and who may write the frame buffer, the phase
and the outputs. -/

namespace Sys2Proof.Machine

/-! ## The two halves of a 16-bit register -/

/-- A register is the join of its halves. -/
theorem join16_hi8_lo8 (v : Word16) : join16 (hi8 v) (lo8 v) = v := by
  have hv := v.isLt
  apply BitVec.eq_of_toNat_eq
  rw [join16_toNat]
  simp only [hi8, lo8, BitVec.extractLsb'_toNat, Nat.shiftRight_eq_div_pow]
  omega

/-- The speed view as a number (10_state.md R20). -/
theorem Cfg.speed_toNat (c : Cfg) : c.speed.toNat = c.speedHigh.toNat * 256 + c.speedLow.toNat :=
  join16_toNat c.speedHigh c.speedLow

/-! ## What a unit of the serializer, a decode event and a command do to the fields -/

/-- A unit of the serializer touches the serializer, the data line and `line` alone (42_serializer.md R138). -/
theorem unitStep_frame {s t : State} (h : unitStep s = .next t) :
    t.params = s.params ∧ t.cfg = s.cfg ∧ t.time = s.time ∧ t.rxwin = s.rxwin ∧ t.fb = s.fb ∧ t.ms = s.ms ∧
    t.echo = s.echo ∧ t.agenda = s.agenda ∧ t.draws = s.draws := by
  rcases unitStep_eq_next h with ⟨-, rfl⟩ | ⟨-, l, -, rfl⟩ | ⟨-, -, rfl⟩ | ⟨-, -, rfl⟩ <;>
    exact ⟨rfl, rfl, rfl, rfl, rfl, rfl, rfl, rfl, rfl⟩

/-- A unit of the serializer appends nothing to `line`, or the frame it has ended. -/
theorem unitStep_line {s t : State} (h : unitStep s = .next t) :
    t.line = s.line ∨ ∃ f, t.line = s.line ++ [f] := by
  rcases unitStep_eq_next h with ⟨-, rfl⟩ | ⟨-, l, -, rfl⟩ | ⟨-, -, rfl⟩ | ⟨-, -, rfl⟩
  · exact .inl rfl
  · exact .inl rfl
  · exact .inl rfl
  · exact .inr ⟨_, rfl⟩

/-- A decode event appends to the echo (30_encoding.md R69). -/
theorem echo_prefix_decodeEvent (s : State) : s.echo <+: (decodeEvent s).echo := by
  rw [decodeEvent_echo]
  split
  · exact List.prefix_append _ _
  · exact List.prefix_rfl

/-- RESET is the one command that restarts. -/
theorem eq_reset_of_restartsSequencer {i : Instr} (h : restartsSequencer i = true) : ∃ par, i = .reset par := by
  cases i with
  | reset par => exact ⟨par, rfl⟩
  | _ => cases h

/-- The opcode 0x03 is MODE's (30_encoding.md R65). -/
theorem eq_mode_of_opcode {i : Instr} (h : i.opcode = 0x03#8) : ∃ par, i = .mode par := by
  cases i with
  | mode par => exact ⟨par, rfl⟩
  | _ => simp [Instr.opcode] at h

/-- A command other than RESET leaves the phase, or is MODE and zeroes it (40_commands.md R83). -/
theorem exec_time {i : Instr} {s t : State} (hi : restartsSequencer i = false) (h : exec i s = .next t) :
    t.time = s.time ∨ (t.time = 0#16 ∧ ∃ par, i = .mode par) := by
  rcases exec_cases i s with ⟨hr, -⟩ | ⟨-, r, he, -⟩ | ⟨-, he, ho⟩
  · rw [hr] at hi
    cases hi
  · rw [he] at h
    cases h
    exact .inl rfl
  · rw [he] at h
    cases h
    exact .inr ⟨rfl, eq_mode_of_opcode ho⟩

/-! ## What a move does to the frame buffer, the phase and the outputs -/

/-- The moves that can change the frame buffer: a reset by port, a reset by command, and a byte write of a cycle. -/
theorem Move.fb_cases {s t : State} (h : Move s t) :
    t.fb = s.fb ∨ (∃ rest, s.agenda = .rst :: rest) ∨
    (s.threadNext = true ∧ s.ser.state = .idle ∧ s.ms = .drain ∧ ∃ par, decodeWindow s.rxwin = .ok (.reset par)) ∨
    (s.threadNext = true ∧ s.ser.state = .idle ∧ ∃ w q, s.ms = .gen (w :: q) ∧
      t.fb = Memory.put s.fb w.addr w.val) := by
  cases h with
  | byte b rest ha hr ht =>
    subst ht
    exact .inl rfl
  | rst rest ha ht => exact .inr (.inl ⟨rest, ha⟩)
  | tick rest ha hb ho l hl ht =>
    subst ht
    exact .inl rfl
  | unit hn hb ht =>
    obtain ⟨-, -, -, -, hfb, -⟩ := unitStep_frame ht
    exact .inl (by simpa using hfb)
  | noCommand hn hb hm hr ht =>
    subst ht
    exact .inl (by simp)
  | unknown hn hb hm hr ho ht =>
    subst ht
    exact .inl (by simp)
  | command hn hb hm hr i hd hi u hu ht =>
    subst ht
    obtain ⟨-, -, hfb, -⟩ := exec_frame hi hu
    exact .inl (by simpa using hfb)
  | reset hn hb hm hr i hd hi ht =>
    obtain ⟨par, rfl⟩ := eq_reset_of_restartsSequencer hi
    exact .inr (.inr (.inl ⟨hn, busy_eq_false.1 hb, hm, par, hd⟩))
  | write hn hb ho w q hm hw ht =>
    subst ht
    exact .inr (.inr (.inr ⟨hn, busy_eq_false.1 hb, w, q, hm, rfl⟩))
  | advance hn hb ho hm ht =>
    subst ht
    exact .inl (threadSees_fb s)

/-- The moves that can change the phase: a reset by port, the phase advance, and a `Drain` of MODE or RESET. -/
theorem Move.time_cases {s t : State} (h : Move s t) :
    t.time = s.time ∨ (∃ rest, s.agenda = .rst :: rest) ∨
    (s.threadNext = true ∧ s.ser.state = .idle ∧ s.ms = .gen [] ∧ t.time = s.time + s.cfg.speed) ∨
    (s.threadNext = true ∧ s.ser.state = .idle ∧ s.ms = .drain ∧ t.time = 0#16 ∧
      ∃ par, decodeWindow s.rxwin = .ok (.mode par) ∨ decodeWindow s.rxwin = .ok (.reset par)) := by
  cases h with
  | byte b rest ha hr ht =>
    subst ht
    exact .inl rfl
  | rst rest ha ht => exact .inr (.inl ⟨rest, ha⟩)
  | tick rest ha hb ho l hl ht =>
    subst ht
    exact .inl rfl
  | unit hn hb ht =>
    obtain ⟨-, -, htime, -⟩ := unitStep_frame ht
    exact .inl (by simpa using htime)
  | noCommand hn hb hm hr ht =>
    subst ht
    exact .inl (by simp)
  | unknown hn hb hm hr ho ht =>
    subst ht
    exact .inl (by simp)
  | command hn hb hm hr i hd hi u hu ht =>
    subst ht
    rcases exec_time hi hu with htime | ⟨htime, par, rfl⟩
    · exact .inl (by simpa using htime)
    · exact .inr (.inr (.inr ⟨hn, busy_eq_false.1 hb, hm, htime, par, .inl hd⟩))
  | reset hn hb hm hr i hd hi ht =>
    subst ht
    obtain ⟨par, rfl⟩ := eq_reset_of_restartsSequencer hi
    exact .inr (.inr (.inr ⟨hn, busy_eq_false.1 hb, hm, rfl, par, .inr hd⟩))
  | write hn hb ho w q hm hw ht =>
    subst ht
    exact .inl (threadSees_time s)
  | advance hn hb ho hm ht =>
    subst ht
    exact .inr (.inr (.inl ⟨hn, busy_eq_false.1 hb, hm, by simp [endCycle]⟩))

/-- A move appends nothing or one frame to `line`. -/
theorem Move.line_cases {s t : State} (h : Move s t) : t.line = s.line ∨ ∃ f, t.line = s.line ++ [f] := by
  cases h with
  | unit hn hb ht => simpa using unitStep_line ht
  | command hn hb hm hr i hd hi u hu ht =>
    subst ht
    obtain ⟨-, -, -, -, -, -, hline, -⟩ := exec_frame hi hu
    exact .inl (by simpa using hline)
  | byte b rest ha hr ht | rst rest ha ht | tick rest ha hb ho l hl ht =>
    subst ht
    exact .inl rfl
  | noCommand hn hb hm hr ht | unknown hn hb hm hr ho ht | reset hn hb hm hr i hd hi ht
  | write hn hb ho w q hm hw ht | advance hn hb ho hm ht =>
    subst ht
    exact .inl (by simp [endCycle])

/-- A move appends to the echo, at most by the decode event of a `Drain`. -/
theorem Move.echo_prefix {s t : State} (h : Move s t) : s.echo <+: t.echo := by
  have hdecode : s.echo <+: (decodeEvent s.threadSees).echo := by
    simpa using echo_prefix_decodeEvent s.threadSees
  cases h with
  | unit hn hb ht =>
    obtain ⟨-, -, -, -, -, -, hecho, -⟩ := unitStep_frame ht
    simp [hecho]
  | command hn hb hm hr i hd hi u hu ht =>
    subst ht
    obtain ⟨-, -, -, -, -, -, -, hecho, -⟩ := exec_frame hi hu
    simpa [hecho] using hdecode
  | unknown hn hb hm hr ho ht | reset hn hb hm hr i hd hi ht =>
    subst ht
    exact hdecode
  | byte b rest ha hr ht | rst rest ha ht | tick rest ha hb ho l hl ht =>
    subst ht
    exact List.prefix_rfl
  | noCommand hn hb hm hr ht | write hn hb ho w q hm hw ht | advance hn hb ho hm ht =>
    subst ht
    simp [endCycle]

/-! ## The statements -/

/-- Settles O57: of the moves that can change the frame buffer, a byte write changes its own address alone, because the
buffer of the invariant is in canonical form. -/
theorem onlyTheGeneratorWritesTheFrameBuffer : Obligations.OnlyTheGeneratorWritesTheFrameBuffer := by
  intro s t hinv hstep a hchanged
  rcases (move_of_step hstep).fb_cases with hfb | hrst | hreset | ⟨hn, hidle, w, q, hm, hfb⟩
  · rw [hfb] at hchanged
    exact absurd rfl hchanged
  · exact .inl hrst
  · exact .inr (.inl hreset)
  · have hread : Memory.get t.fb a = if a = w.addr then w.val else Memory.get s.fb a := by
      rw [hfb, Memory.get_put_wf hinv.memory]
    by_cases haddr : a = w.addr
    · rw [if_pos haddr] at hread
      exact .inr (.inr ⟨hn, hidle, w, q, hm, haddr.symm, hread⟩)
    · rw [if_neg haddr] at hread
      exact absurd hread hchanged

/-- Settles O58, by the moves that can change the phase. -/
theorem onlyAdvanceModeAndResetWriteThePhase : Obligations.OnlyAdvanceModeAndResetWriteThePhase := by
  intro s t hstep hchanged
  exact (move_of_step hstep).time_cases.resolve_left hchanged

/-- Settles O59, by what each move appends. -/
theorem outputsOnlyGrow : Obligations.OutputsOnlyGrow := by
  intro s t hstep
  have hmove := move_of_step hstep
  have hecho := hmove.echo_prefix
  rcases hmove.line_cases with hline | ⟨f, hline⟩
  · rw [hline]
    exact ⟨List.prefix_rfl, hecho, Nat.le_succ _⟩
  · rw [hline]
    exact ⟨List.prefix_append _ _, hecho, by simp⟩

/-- Settles O21: each command writes its own half, and the view joins the halves. -/
theorem speedIsAssembledFromTwoCommands : Obligations.SpeedIsAssembledFromTwoCommands := by
  intro h l s
  exact ⟨s.cfg.speed_toNat, ⟨_, rfl, Cfg.speed_toNat _⟩, ⟨_, rfl, Cfg.speed_toNat _⟩, ⟨_, rfl, Cfg.speed_toNat _⟩⟩

/-- Settles O51: a one-bit parameter is its register's value, and the two halves of `SPEED_RESET` join to it. -/
theorem resetStateValues : Obligations.ResetStateValues := by
  intro p
  have hbit : ∀ b : Bool, (if b then 1#8 else 0#8).toNat = b.toNat := by decide
  have hcount : p.capacity ≤ 255 → (BitVec.ofNat 8 p.capacity).toNat = p.capacity := by
    intro hcap
    rw [BitVec.toNat_ofNat, Nat.mod_eq_of_lt (by omega)]
  exact ⟨hbit _, rfl, rfl, rfl, hbit _, hcount, join16_hi8_lo8 _, rfl, rfl, rfl, fun _ => rfl, rfl, rfl, rfl⟩

/-- Settles O52: at reset the buffer is empty, no cycle is in progress and the serializer is idle with the line low. -/
theorem invariantHoldsAtReset : Obligations.InvariantHoldsAtReset := by
  intro p hp
  exact ⟨hp, Memory.wf_nil _, trivial, trivial, lineLevel_idle rfl⟩

end Sys2Proof.Machine

/-! PROOF. The statements of 20_memory.md: the invariant every step keeps, what a `Drain` does not read, where a count over
the capacity stops, and the order of the block's agents. -/

namespace Sys2Proof.Machine

/-! ## What the invariant depends on -/

/-- The invariant carries over to a state that differs in the registers, the phase, the window, the sequencer, the outputs
and the model's own fields, if a cycle in progress there still writes active pixels only. -/
theorem State.Inv.of_frame {s t : State} (h : s.Inv) (hparams : t.params = s.params) (hfb : t.fb = s.fb)
    (hser : t.ser = s.ser) (hdout : t.dout = s.dout) (hqueue : t.queueWithin) : t.Inv where
  params := hparams ▸ h.params
  memory := by
    unfold State.fbSize
    rw [hparams, hfb]
    exact h.memory
  queue := hqueue
  serializer := by
    unfold State.serializerLegal
    rw [hser, hparams]
    exact h.serializer
  level := by
    rw [lineLevel_congr hser hfb hparams, hdout]
    exact h.level

/-- The invariant carries over to a new serializer position that is legal, with the line driven to its level. -/
theorem State.Inv.of_position {s : State} {z : Serializer} {l : Bool} (h : s.Inv)
    (hlegal : (s.setSer z).serializerLegal) (hlevel : lineLevel (s.setSer z) = some l) :
    ((s.setSer z).setDout l).Inv :=
  ⟨h.params, h.memory, h.queue, hlegal, hlevel⟩

/-- The line is low while the serializer is idle (42_serializer.md R139). -/
theorem State.Inv.dout_idle {s : State} (h : s.Inv) (hidle : s.ser.state = .idle) : s.dout = false :=
  Option.some.inj (h.level.symm.trans (lineLevel_idle hidle))

/-! ## Legal queues and serializer positions -/

/-- A cycle that starts writes active pixels only (41_generator.md R100, R119). -/
theorem startCycle_queueWithin (s : State) : (startCycle s).queueWithin :=
  writes_within s.cfg s.time s.draws

theorem queueWithin_gen {s : State} {q : List ByteWrite} (hm : s.ms = .gen q) :
    s.queueWithin ↔ writesWithin (3 * s.cfg.pixelCount.toNat) q := by
  unfold State.queueWithin
  rw [hm]

theorem serializerLegal_idle {s : State} (h : s.ser.state = .idle) : s.serializerLegal := by
  unfold State.serializerLegal
  rw [h]
  trivial

theorem serializerLegal_shift {s : State} (h : s.ser.state = .shift) :
    s.serializerLegal ↔ s.ser.pix.toNat < s.ser.count.toNat ∧ s.ser.count.toNat ≤ s.params.capacity ∧
      s.ser.latch = 0 := by
  unfold State.serializerLegal
  rw [h]

theorem serializerLegal_latch {s : State} (h : s.ser.state = .latch) :
    s.serializerLegal ↔ s.ser.latch < s.params.tLatchUnits := by
  unfold State.serializerLegal
  rw [h]

/-- A frame starts at a legal position: its first pixel if there is one, else the latch (42_serializer.md R138). -/
theorem serializerStart_legal {s : State} (en : Bool) (hp : s.params.wf) (ho : s.overCapacity = false) :
    (s.setSer (serializerStart en s.cfg.pixelCount)).serializerLegal := by
  obtain ⟨-, -, hlatch⟩ := hp
  by_cases hc : s.cfg.pixelCount = 0#8
  · exact (serializerLegal_latch (if_pos hc)).2 hlatch
  · have hpos : 0 < s.cfg.pixelCount.toNat :=
      Nat.pos_of_ne_zero fun h0 => hc (BitVec.eq_of_toNat_eq h0)
    exact (serializerLegal_shift (if_neg hc)).2 ⟨hpos, overCapacity_eq_false.1 ho, rfl⟩

/-- A unit in SHIFT goes to a legal position: a pixel still below the count, or the first unit of the latch. -/
theorem advanceShift_legal {s : State} (hp : s.params.wf) (hlegal : s.serializerLegal) (hst : s.ser.state = .shift) :
    (s.setSer (advanceShift s.ser)).serializerLegal := by
  obtain ⟨-, -, hlatch⟩ := hp
  obtain ⟨hpix, hcount, hzero⟩ := (serializerLegal_shift hst).1 hlegal
  obtain ⟨hnext, hpix', hcount', -, hlatch'⟩ := advanceShift_spec s.ser hst hpix
  rcases hnext with hshift | hlat
  · refine (serializerLegal_shift hshift).2 ⟨?_, ?_, ?_⟩
    · simpa [hcount'] using hpix'
    · simpa [hcount'] using hcount
    · simpa [hlatch'] using hzero
  · refine (serializerLegal_latch hlat).2 ?_
    simp only [State.setSer_ser, State.setSer_params]
    omega

/-! ## The invariant across a reset, a unit and a byte write -/

theorem restart_inv {s : State} (hp : s.params.wf) : (restart s).Inv :=
  (invariantHoldsAtReset s.params hp).of_frame rfl rfl rfl rfl trivial

/-- A unit of the serializer keeps the invariant (42_serializer.md R138, R139). -/
theorem unitStep_inv {s t : State} (h : s.Inv) (hu : unitStep s = .next t) : t.Inv := by
  rcases unitStep_eq_next hu with ⟨-, rfl⟩ | ⟨hst, l, hl, rfl⟩ | ⟨hst, hlt, rfl⟩ | ⟨hst, -, rfl⟩
  · exact h
  · exact h.of_position (advanceShift_legal h.params h.serializer hst) hl
  · exact h.of_position ((serializerLegal_latch (by exact hst)).2 hlt) (lineLevel_latch hst)
  · exact (h.of_position (z := { s.ser with state := .idle }) (serializerLegal_idle rfl) (lineLevel_idle rfl)).of_frame
      rfl rfl rfl rfl h.queue

/-- With the serializer idle, a byte write inside the frame buffer and the rest of its cycle keep the invariant. -/
theorem write_inv {s : State} {w : ByteWrite} {q : List ByteWrite} (h : s.Inv) (hidle : s.ser.state = .idle)
    (hm : s.ms = .gen (w :: q)) (hw : w.addr < s.fbSize) :
    ((s.setFb (Memory.put s.fb w.addr w.val)).setMs (.gen q)).Inv where
  params := h.params
  memory := Memory.wf_put w.val h.memory hw
  queue := fun w' hw' => (queueWithin_gen hm).1 h.queue w' (List.mem_cons_of_mem w hw')
  serializer := h.serializer
  level := by
    rw [lineLevel_idle (by exact hidle)]
    exact congrArg some (h.dout_idle hidle).symm

/-- The thread sees a state that holds the invariant too. -/
theorem threadSees_inv {s : State} (h : s.Inv) : s.threadSees.Inv := by
  rw [threadSees_eq]
  exact h.of_frame rfl rfl rfl rfl h.queue

/-- Every move keeps the invariant. -/
theorem Move.inv {s t : State} (hmove : Move s t) (h : s.Inv) : t.Inv := by
  have hsees := threadSees_inv h
  cases hmove with
  | byte b rest ha hr ht =>
    subst ht
    exact h.of_frame rfl rfl rfl rfl h.queue
  | rst rest ha ht =>
    subst ht
    exact restart_inv h.params
  | tick rest ha hb ho l hl ht =>
    subst ht
    exact (h.of_position (serializerStart_legal _ h.params ho) hl).of_frame rfl rfl rfl rfl h.queue
  | unit hn hb ht => exact unitStep_inv hsees ht
  | noCommand hn hb hm hr ht =>
    subst ht
    exact hsees.of_frame rfl rfl rfl rfl (startCycle_queueWithin _)
  | unknown hn hb hm hr ho ht =>
    subst ht
    exact hsees.of_frame (by simp) (by simp) (by simp) (by simp) (startCycle_queueWithin _)
  | command hn hb hm hr i hd hi u hu ht =>
    subst ht
    obtain ⟨hparams, -, hfb, -, hser, hdout, -⟩ := exec_frame hi hu
    exact hsees.of_frame (by simp [hparams]) (by simp [hfb]) (by simp [hser]) (by simp [hdout])
      (startCycle_queueWithin u)
  | reset hn hb hm hr i hd hi ht =>
    subst ht
    exact restart_inv (by simpa using h.params)
  | write hn hb ho w q hm hw ht =>
    subst ht
    simpa using write_inv hsees (by simpa using busy_eq_false.1 hb) (by simpa using hm) (by simpa [State.fbSize] using hw)
  | advance hn hb ho hm ht =>
    subst ht
    exact hsees.of_frame rfl rfl rfl rfl trivial

/-- Settles O53: each move keeps the invariant. -/
theorem stepKeepsTheInvariant : Obligations.StepKeepsTheInvariant :=
  fun _ _ hinv hstep => (move_of_step hstep).inv hinv

/-! ## A Drain does not read the frame buffer

Every part of a `Drain` commutes with an update of the frame buffer, but for RESET, which forgets it. -/

theorem threadNext_setFb (s : State) (m : Memory) : (s.setFb m).threadNext = s.threadNext := rfl

theorem threadSees_setFb (s : State) (m : Memory) : (s.setFb m).threadSees = s.threadSees.setFb m := by
  unfold State.threadSees
  rw [State.setFb_agenda]
  split <;> rfl

theorem decodeEvent_setFb (s : State) (m : Memory) : decodeEvent (s.setFb m) = (decodeEvent s).setFb m := by
  rw [decodeEvent_eq, decodeEvent_eq]
  rfl

/-- From another frame buffer a command ends in a state that differs in the frame buffer alone: RESET in the same state,
every other command with the other frame buffer kept. -/
theorem exec_setFb {i : Instr} {s t : State} (m : Memory) (h : exec i s = .next t) :
    ∃ m', exec i (s.setFb m) = .next (t.setFb m') := by
  rcases exec_uniform i with ⟨-, he⟩ | ⟨-, -, r, he⟩ | ⟨-, -, he⟩
  all_goals
    rw [he] at h
    cases h
  · exact ⟨[], he _⟩
  · exact ⟨m, he _⟩
  · exact ⟨m, he _⟩

/-- A command and the cycle after it end, from another frame buffer, in a state that differs in the frame buffer alone. -/
theorem applyCommand_setFb {i : Instr} {s t : State} (m : Memory) (h : applyCommand i s = .next t) :
    ∃ m', applyCommand i (s.setFb m) = .next (t.setFb m') := by
  obtain ⟨u, hu, ht⟩ := andThen_eq_next h
  obtain ⟨m', he⟩ := exec_setFb m hu
  cases ht
  refine ⟨m', ?_⟩
  unfold applyCommand
  rw [he, andThen_next]
  cases restartsSequencer i <;> rfl

/-- From another frame buffer a `Drain` ends in a state that differs in the frame buffer alone. -/
theorem drain_setFb {s t : State} (m : Memory) (h : drain s = .next t) :
    ∃ m', drain (s.setFb m) = .next (t.setFb m') := by
  unfold drain at h ⊢
  rw [State.setFb_rxwin, decodeEvent_setFb]
  by_cases hr : recognised s.rxwin = true
  · rw [if_pos hr] at h ⊢
    cases hd : decodeWindow s.rxwin with
    | ok i =>
      rw [hd] at h
      exact applyCommand_setFb m h
    | error e =>
      rw [hd] at h
      cases h
      exact ⟨m, rfl⟩
  · rw [if_neg hr] at h ⊢
    cases h
    exact ⟨m, rfl⟩

/-- Settles O40: the frame buffer is put back after the `Drain` from the other one. -/
theorem drainDoesNotReadTheFrameBuffer : Obligations.DrainDoesNotReadTheFrameBuffer := by
  intro s t m hn hidle hm hstep
  have hb : s.threadSees.busy = false := by simpa using busy_eq_false.2 hidle
  have hm' : s.threadSees.ms = .drain := by simpa using hm
  rw [step_thread hn, threadStep_drain hb hm'] at hstep
  obtain ⟨m', hdrain⟩ := drain_setFb m hstep
  refine ⟨t.setFb m', ?_, rfl⟩
  rw [step_thread ((threadNext_setFb s m).trans hn), threadSees_setFb, threadStep_drain (s := s.threadSees.setFb m) hb hm', hdrain]

/-! ## A count over the capacity -/

theorem genStep_overCapacity {s : State} (q : List ByteWrite) (h : s.overCapacity = true) :
    genStep q s = .fault .pixelCountOverCapacity := if_pos h

theorem takeTick_overCapacity {s : State} (hb : s.busy = false) (h : s.overCapacity = true) :
    takeTick s = .fault .pixelCountOverCapacity := by
  unfold takeTick
  rw [hb, h]
  rfl

/-- Settles O43: the step of a cycle and the tick look at the count before anything else, the serializer being idle. -/
theorem countOverCapacityFaults : Obligations.CountOverCapacityFaults := by
  intro s hidle hover
  have hb : s.busy = false := busy_eq_false.2 hidle
  have ho : s.overCapacity = true := overCapacity_eq_true.2 hover
  constructor
  · intro q hn hm
    rw [step_thread hn, threadStep_gen (q := q) (by simpa using hb) (by simpa using hm)]
    exact genStep_overCapacity q (by simpa [State.overCapacity] using ho)
  · intro rest ha
    rw [step_tick ha]
    exact takeTick_overCapacity hb ho

/-! ## The main sequencer waits for the serializer -/

/-- The window after a byte, as R61 writes it: the two newer bytes, then the byte. -/
theorem shiftIn_eq_append (w : Window) (b : Byte) : w.shiftIn b = w.extractLsb' 0 16 ++ b := by
  unfold Window.shiftIn
  apply BitVec.eq_of_getLsbD_eq
  intro i hi
  simp only [BitVec.getLsbD_or, BitVec.getLsbD_shiftLeft, BitVec.getLsbD_setWidth, BitVec.getLsbD_append,
    BitVec.getLsbD_extractLsb']
  by_cases h : i < 8
  · simp [h, hi]
  · have hb : b.getLsbD i = false := BitVec.getLsbD_of_ge b i (by omega)
    simp [h, hi, hb, show i - 8 < 16 by omega]

/-- An advance in SHIFT keeps what the tick has captured. -/
theorem advanceShift_captured (z : Serializer) :
    (advanceShift z).count = z.count ∧ (advanceShift z).en = z.en := by
  unfold advanceShift
  split
  · exact ⟨rfl, rfl⟩
  · dsimp only
    split_ifs <;> exact ⟨rfl, rfl⟩

/-- A unit of the serializer keeps what the tick has captured (42_serializer.md R131, R138). -/
theorem unitStep_captured {s t : State} (h : unitStep s = .next t) :
    t.ser.count = s.ser.count ∧ t.ser.en = s.ser.en := by
  rcases unitStep_eq_next h with ⟨-, rfl⟩ | ⟨-, l, -, rfl⟩ | ⟨-, -, rfl⟩ | ⟨-, -, rfl⟩
  · exact ⟨rfl, rfl⟩
  · exact advanceShift_captured s.ser
  · exact ⟨rfl, rfl⟩
  · exact ⟨rfl, rfl⟩

/-- The moves while the serializer is busy: a byte, a reset by port, and a unit (20_memory.md R48). -/
theorem Move.busy_cases {s t : State} (h : Move s t) (hbusy : s.busy = true) :
    (∃ b rest, s.agenda = .byte b :: rest ∧ t = rxShift b (s.setAgenda rest)) ∨
    (∃ rest, s.agenda = .rst :: rest) ∨ unitStep s.threadSees = .next t := by
  cases h with
  | byte b rest ha hr ht => exact .inl ⟨b, rest, ha, ht⟩
  | rst rest ha ht => exact .inr (.inl ⟨rest, ha⟩)
  | unit hn hb ht => exact .inr (.inr ht)
  | tick rest ha hb | noCommand hn hb | unknown hn hb | command hn hb | reset hn hb | write hn hb | advance hn hb =>
    rw [hbusy] at hb
    cases hb

/-- Settles O49, by the two moves that are left without `rst`: the byte that arrives and the unit. -/
theorem mainSequencerWaitsForTheSerializer : Obligations.MainSequencerWaitsForTheSerializer := by
  intro s t hbusy hstep hrst
  rcases (move_of_step hstep).busy_cases (busy_eq_true.2 hbusy) with ⟨b, rest, ha, rfl⟩ | ⟨rest, ha⟩ | hunit
  · exact ⟨rfl, rfl, rfl, rfl, rfl, rfl, rfl, rfl, .inr ⟨b, rest, ha, shiftIn_eq_append s.rxwin b⟩⟩
  · exact absurd ha (hrst rest)
  · obtain ⟨hparams, hcfg, htime, hrxwin, hfb, hms, hecho, -⟩ := unitStep_frame hunit
    obtain ⟨hcount, hen⟩ := unitStep_captured hunit
    simp [hparams, hcfg, htime, hrxwin, hfb, hms, hecho, hcount, hen]

/-! ## The writers of the registers -/

/-- The moves that can change a register: a reset by port, and a `Drain` of a recognised window. -/
theorem Move.cfg_cases {s t : State} (h : Move s t) :
    t.cfg = s.cfg ∨ (∃ rest, s.agenda = .rst :: rest) ∨
    (s.threadNext = true ∧ s.ser.state = .idle ∧ s.ms = .drain ∧ recognised s.rxwin = true) := by
  cases h with
  | rst rest ha ht => exact .inr (.inl ⟨rest, ha⟩)
  | unknown hn hb hm hr | command hn hb hm hr | reset hn hb hm hr =>
    exact .inr (.inr ⟨hn, busy_eq_false.1 hb, hm, hr⟩)
  | unit hn hb ht =>
    obtain ⟨-, hcfg, -⟩ := unitStep_frame ht
    exact .inl (by simpa using hcfg)
  | byte b rest ha hr ht | tick rest ha hb ho l hl ht =>
    subst ht
    exact .inl rfl
  | noCommand hn hb hm hr ht | write hn hb ho w q hm hw ht | advance hn hb ho hm ht =>
    subst ht
    exact .inl (threadSees_cfg s)

/-- Settles O56, by the moves that can change a register. -/
theorem onlyDrainWritesTheRegisters : Obligations.OnlyDrainWritesTheRegisters :=
  fun _ _ hstep hchanged => (move_of_step hstep).cfg_cases.resolve_left hchanged

end Sys2Proof.Machine

/-! PROOF. The statements of 30_encoding.md: one meaning for each word, the recognition predicate, the bytes that shift into
the window, the byte held behind an undrained command, and the echo. -/

namespace Sys2Proof

/-! ## Each word has one meaning -/

/-- Decode of encode (30_encoding.md R60, R65). -/
theorem decodeWindow_encode (i : Instr) : decodeWindow (encode i) = .ok i := by
  unfold decodeWindow
  rw [if_pos (recognised_encode i), encode_eq, oldest_ofBytes, middle_ofBytes, decodeOpcode_opcode]

/-- A recognised window ends in the sync byte (30_encoding.md R62 b). -/
theorem newest_of_recognised {w : Window} (h : recognised w = true) : w.newest = Config.sync := by
  unfold recognised at h
  exact eq_of_beq (Bool.and_eq_true_iff.1 h).2

/-- A window that decodes holds the opcode and the parameter of its command, and the sync byte. -/
theorem eq_encode_of_decodeWindow {w : Window} {i : Instr} (h : decodeWindow w = .ok i) : w = encode i := by
  have hr := recognised_of_decodeWindow h
  rcases decodeWindow_recognised hr with ⟨j, hj, hop, hpar⟩ | ⟨hreserved, -⟩
  · rw [h] at hj
    cases hj
    rw [encode_eq, hop, hpar, ← newest_of_recognised hr, ofBytes_fields]
  · rw [h] at hreserved
    cases hreserved

/-- Settles O3: decode of encode one way, and the three bytes of a window that decodes the other way. -/
theorem decodedWordIsItsEncoding : Obligations.DecodedWordIsItsEncoding :=
  fun _ i => ⟨eq_encode_of_decodeWindow, fun hw => hw ▸ decodeWindow_encode i⟩

/-- Settles O1: five of the words are the encodings of their commands; the opcode of the sixth is in no row of the table. -/
theorem writtenWordsDecode : Obligations.WrittenWordsDecode :=
  ⟨decodeWindow_encode (.enable 0x32#8), decodeWindow_encode (.bright 0x32#8), decodeWindow_encode (.spdh 0xFF#8),
    decodeWindow_encode (.regl 0x80#8), decodeWindow_encode (.reset 0x00#8), by decide⟩

/-! ## The recognition predicate -/

/-- A window is above 0xFFFF exactly when its oldest byte is not 0 (30_encoding.md R62 a). -/
theorem above_ffff_iff_oldest (w : Window) : 0xFFFF < w.toNat ↔ w.oldest ≠ 0#8 := by
  obtain ⟨a, b, c, rfl⟩ := window_cases w
  have hb := b.isLt
  have hc := c.isLt
  rw [ofBytes_toNat, oldest_ofBytes, ne_eq, ← BitVec.toNat_inj, BitVec.toNat_ofNat]
  omega

/-- A window whose oldest byte is 0 is not recognised. -/
theorem recognised_zero_oldest (b c : Byte) : recognised (Window.ofBytes 0#8 b c) = false := recognised_ofBytes 0#8 b c

/-- A window whose newest byte is not the sync byte is not recognised. -/
theorem recognised_not_sync (a b : Byte) {c : Byte} (hc : c ≠ 0xFF#8) : recognised (Window.ofBytes a b c) = false := by
  rw [recognised_ofBytes, beq_false_of_ne (by exact hc), Bool.and_false]

/-- Any non-zero opcode and any parameter, with the sync byte after them, are recognised as themselves. -/
theorem recognised_command {op : Byte} (par : Byte) (hop : op ≠ 0#8) :
    recognised (Window.ofBytes op par 0xFF#8) = true ∧ (Window.ofBytes op par 0xFF#8).oldest = op ∧
      (Window.ofBytes op par 0xFF#8).middle = par := by
  refine ⟨?_, oldest_ofBytes _ _ _, middle_ofBytes _ _ _⟩
  rw [recognised_ofBytes, bne_iff_ne.2 hop]
  rfl

/-- Settles O5: the two conditions as the model writes them, and condition (a) as a fact of the oldest byte. -/
theorem recognitionPredicate : Obligations.RecognitionPredicate := by
  refine ⟨fun w => ?_, above_ffff_iff_oldest, fun op => recognised_zero_oldest op _,
    fun op hop => (recognised_command 0x00#8 hop).1⟩
  unfold recognised
  rw [Bool.and_eq_true_iff, BitVec.ult_iff_toNat_lt, beq_iff_eq]
  rfl

/-! ## Bytes shifted in -/

/-- The oldest byte is dropped, the new one comes last (30_encoding.md R61). -/
theorem shiftIn_eq_ofBytes (w : Window) (x : Byte) : w.shiftIn x = Window.ofBytes w.middle w.newest x := by
  conv_lhs => rw [← ofBytes_fields w, shiftIn_ofBytes]

/-- Three bytes shifted in are the window, whatever it held before. -/
theorem shiftIn_three (w : Window) (a b c : Byte) :
    ((w.shiftIn a).shiftIn b).shiftIn c = Window.ofBytes a b c := by
  rw [shiftIn_eq_ofBytes w a, shiftIn_ofBytes, shiftIn_ofBytes]

/-- The first byte on a clean window. -/
theorem shiftIn_clean (a : Byte) : Window.shiftIn 0#24 a = Window.ofBytes 0#8 0#8 a := by
  rw [zero_eq_ofBytes, shiftIn_ofBytes]

/-- The first two bytes on a clean window are never recognised: the oldest byte of the window is still 0. -/
theorem not_recognised_before_third_byte (a b : Byte) :
    recognised (Window.shiftIn 0#24 a) = false ∧ recognised ((Window.shiftIn 0#24 a).shiftIn b) = false := by
  rw [shiftIn_clean, shiftIn_ofBytes]
  exact ⟨recognised_zero_oldest _ _, recognised_zero_oldest _ _⟩

/-- The window after a byte as a number (30_encoding.md R61). -/
theorem shiftIn_toNat (w : Window) (x : Byte) : (w.shiftIn x).toNat = (w.toNat * 256 + x.toNat) % 2 ^ 24 := by
  obtain ⟨a, b, c, rfl⟩ := window_cases w
  have hb := b.isLt
  have hc := c.isLt
  have hx := x.isLt
  rw [shiftIn_ofBytes, ofBytes_toNat, ofBytes_toNat]
  omega

/-- Settles O8: the third window is the command, the two before it start with 0. -/
theorem cleanCommandIsRecognisedOnce : Obligations.CleanCommandIsRecognisedOnce := by
  intro op par hop w1 w2 w3
  have hw3 : w3 = Window.ofBytes op par 0xFF#8 := shiftIn_three 0#24 op par 0xFF#8
  obtain ⟨hfirst, hsecond⟩ := not_recognised_before_third_byte op par
  rw [hw3]
  exact ⟨hfirst, hsecond, recognised_command par hop⟩

/-- Settles O9: the first two windows start with 0, the next two do not end in the sync byte, and the fifth is the good
command. -/
theorem truncatedCommandResynchronises : Obligations.TruncatedCommandResynchronises := by
  intro op par op2 par2 hop2 hop2sync hpar2sync w1 w2 w3 w4 w5
  have hw3 : w3 = Window.ofBytes op par op2 := shiftIn_three 0#24 op par op2
  have hw4 : w4 = Window.ofBytes par op2 par2 := shiftIn_three w1 par op2 par2
  have hw5 : w5 = Window.ofBytes op2 par2 0xFF#8 := shiftIn_three w2 op2 par2 0xFF#8
  obtain ⟨hfirst, hsecond⟩ := not_recognised_before_third_byte op par
  rw [hw3, hw4, hw5]
  exact ⟨hfirst, hsecond, recognised_not_sync op par hop2sync, recognised_not_sync par op2 hpar2sync,
    recognised_command par2 hop2⟩

/-- A non-zero byte, any byte and the sync byte are recognised as a command from any window (30_encoding.md R67). -/
theorem recognised_shiftIn_three (w : Window) {x : Byte} (y : Byte) (hx : x ≠ 0#8) :
    recognised (((w.shiftIn x).shiftIn y).shiftIn 0xFF#8) = true ∧
      (((w.shiftIn x).shiftIn y).shiftIn 0xFF#8).oldest = x ∧
      (((w.shiftIn x).shiftIn y).shiftIn 0xFF#8).middle = y := by
  rw [shiftIn_three]
  exact recognised_command y hx

/-- Settles O10: each corner is a non-zero byte, a byte and the sync byte shifted into some window. -/
theorem mergedCommandCorners : Obligations.MergedCommandCorners :=
  ⟨fun op _ op2 hpar => recognised_shiftIn_three (Window.shiftIn 0#24 op) op2 hpar,
    fun _ par hop => recognised_shiftIn_three 0#24 par hop,
    fun w _ op hx => recognised_shiftIn_three w op hx⟩

end Sys2Proof

namespace Sys2Proof.Machine

/-! ## When a byte is accepted -/

/-- `rx_ready` is low exactly behind an undrained command with back-pressure (30_encoding.md R61). -/
theorem rxReady_eq_false {s : State} :
    s.rxReady = false ↔ s.params.rxBackpressure = true ∧ recognised s.rxwin = true := by
  unfold State.rxReady
  rw [Bool.not_eq_false', Bool.and_eq_true_iff]

/-- An empty window lets the next byte in. -/
theorem rxReady_of_window_zero {s : State} (h : s.rxwin = 0#24) : s.rxReady = true := by
  by_contra hr
  obtain ⟨-, hrec⟩ := rxReady_eq_false.1 (Bool.eq_false_iff.2 hr)
  rw [h] at hrec
  exact absurd hrec (by decide)

/-- Settles O6: `rx_ready` is high, so the step is the shift. -/
theorem byteShiftsIntoTheWindow : Obligations.ByteShiftsIntoTheWindow := by
  intro s b rest ha hready
  have hr : s.rxReady = true := Bool.eq_true_of_not_eq_false (mt rxReady_eq_false.1 hready)
  exact ⟨s.rxwin.shiftIn b, step_byte ha hr, shiftIn_toNat s.rxwin b, shiftIn_eq_append s.rxwin b⟩

/-! ## The moves of the thread, and the decode event among them -/

theorem threadNext_byte {s : State} {b : Byte} {rest : List Event} (ha : s.agenda = .byte b :: rest) :
    s.threadNext = !s.rxReady := by
  unfold State.threadNext
  rw [ha]

theorem threadSees_byte {s : State} {b : Byte} {rest : List Event} (ha : s.agenda = .byte b :: rest) :
    s.threadSees = s := by
  unfold State.threadSees
  rw [ha]

theorem threadNext_tick {s : State} {rest : List Event} (ha : s.agenda = .tick :: rest) : s.threadNext = false := by
  unfold State.threadNext
  rw [ha]

theorem threadNext_rst {s : State} {rest : List Event} (ha : s.agenda = .rst :: rest) : s.threadNext = false := by
  unfold State.threadNext
  rw [ha]

/-- The next move is a decode event: a `Drain` of a recognised window (30_encoding.md R63, 40_commands.md R80). -/
abbrev State.decodesNext (s : State) : Prop :=
  s.threadNext = true ∧ s.ser.state = .idle ∧ s.ms = .drain ∧ recognised s.rxwin = true

/-- A move of the thread uses up no more of the schedule than what the thread sees. -/
theorem Move.agenda_of_thread {s t : State} (h : Move s t) (hn : s.threadNext = true) :
    t.agenda = s.threadSees.agenda := by
  cases h with
  | byte b rest ha hr ht => simp [threadNext_byte ha, hr] at hn
  | rst rest ha ht => simp [threadNext_rst ha] at hn
  | tick rest ha hb ho l hl ht => simp [threadNext_tick ha] at hn
  | unit _ hb ht =>
    obtain ⟨-, -, -, -, -, -, -, hagenda, -⟩ := unitStep_frame ht
    exact hagenda
  | command _ hb hm hr i hd hi u hu ht =>
    subst ht
    obtain ⟨-, -, -, -, -, -, -, -, hagenda, -⟩ := exec_frame hi hu
    simpa using hagenda
  | noCommand _ hb hm hr ht | unknown _ hb hm hr ho ht | reset _ hb hm hr i hd hi ht
  | write _ hb ho w q hm hw ht | advance _ hb ho hm ht =>
    subst ht
    simp [endCycle]

/-- A decode event empties the window and echoes the pair; every other move keeps the echo, and the window too if it is the
thread's (40_commands.md R80, 30_encoding.md R61, R69). -/
theorem Move.decode_cases {s t : State} (h : Move s t) :
    (s.decodesNext ∧ t.rxwin = 0#24 ∧ t.echo = (decodeEvent s.threadSees).echo) ∨
    (¬ s.decodesNext ∧ t.echo = s.echo ∧ (s.threadNext = true → t.rxwin = s.rxwin)) := by
  cases h with
  | byte b rest ha hr ht =>
    subst ht
    have hn : s.threadNext ≠ true := by simp [threadNext_byte ha, hr]
    exact .inr ⟨fun hd => hn hd.1, rfl, fun hn' => absurd hn' hn⟩
  | rst rest ha ht =>
    subst ht
    have hn : s.threadNext ≠ true := by simp [threadNext_rst ha]
    exact .inr ⟨fun hd => hn hd.1, rfl, fun hn' => absurd hn' hn⟩
  | tick rest ha hb ho l hl ht =>
    subst ht
    have hn : s.threadNext ≠ true := by simp [threadNext_tick ha]
    exact .inr ⟨fun hd => hn hd.1, rfl, fun _ => rfl⟩
  | unit hn hb ht =>
    obtain ⟨-, -, -, hrxwin, -, -, hecho, -⟩ := unitStep_frame ht
    have hidle : s.ser.state ≠ .idle := busy_eq_true.1 hb
    exact .inr ⟨fun ⟨_, hi, _⟩ => hidle hi, by simpa using hecho, fun _ => by simpa using hrxwin⟩
  | noCommand hn hb hm hr ht =>
    subst ht
    refine .inr ⟨fun ⟨_, _, _, hrec⟩ => ?_, by simp, fun _ => by simp⟩
    rw [hr] at hrec
    cases hrec
  | unknown hn hb hm hr ho ht =>
    subst ht
    exact .inl ⟨⟨hn, busy_eq_false.1 hb, hm, hr⟩, by simp, rfl⟩
  | command hn hb hm hr i hd hi u hu ht =>
    subst ht
    obtain ⟨-, hrxwin, -, -, -, -, -, hecho, -⟩ := exec_frame hi hu
    exact .inl ⟨⟨hn, busy_eq_false.1 hb, hm, hr⟩, by simp [hrxwin], hecho⟩
  | reset hn hb hm hr i hd hi ht =>
    subst ht
    exact .inl ⟨⟨hn, busy_eq_false.1 hb, hm, hr⟩, rfl, rfl⟩
  | write hn hb ho w q hm hw ht | advance hn hb ho hm ht =>
    subst ht
    refine .inr ⟨fun ⟨_, _, hdrain, _⟩ => ?_, by simp [endCycle], fun _ => by simp [endCycle]⟩
    rw [hm] at hdrain
    cases hdrain

/-- At `DRAIN` with the serializer idle, the thread's step completes. -/
theorem step_completes_at_drain {s : State} (hn : s.threadNext = true) (hidle : s.ser.state = .idle)
    (hm : s.ms = .drain) : ∃ t, step s = .next t := by
  rw [step_thread hn, threadStep_drain (busy_eq_false.2 (by simpa using hidle)) (by simpa using hm)]
  exact drain_completes s.threadSees

/-- Settles O7: the held byte leaves the move to the thread, which keeps the schedule, and whose `Drain` of the recognised
window is a decode event. -/
theorem byteIsHeldUntilTheDrain : Obligations.ByteIsHeldUntilTheDrain := by
  intro s b rest ha hpressure hrec
  have hn : s.threadNext = true := by
    rw [threadNext_byte ha, rxReady_eq_false.2 ⟨hpressure, hrec⟩]
    rfl
  constructor
  · intro t hstep
    have hmove := move_of_step hstep
    refine ⟨by rw [hmove.agenda_of_thread hn, threadSees_byte ha, ha], ?_⟩
    rcases hmove.decode_cases with ⟨-, hempty, -⟩ | ⟨-, -, hkept⟩
    · exact .inr hempty
    · exact .inl (hkept hn)
  · intro hidle hm
    obtain ⟨t, hstep⟩ := step_completes_at_drain hn hidle hm
    rcases (move_of_step hstep).decode_cases with ⟨-, hempty, -⟩ | ⟨hnot, -, -⟩
    · exact ⟨t, hstep, hempty, rxReady_of_window_zero hempty⟩
    · exact absurd ⟨hn, hidle, hm, hrec⟩ hnot

/-- Settles O15: the moves are the decode events, which echo the pair if `ECHO_ENABLE`, and those that keep the echo. -/
theorem echoReportsEveryDecodeEvent : Obligations.EchoReportsEveryDecodeEvent := by
  intro s t hstep
  rcases (move_of_step hstep).decode_cases with ⟨hdecodes, -, hecho⟩ | ⟨hnot, hecho, -⟩
  · rw [hecho, decodeEvent_echo, threadSees_params, threadSees_echo, threadSees_rxwin]
    by_cases henable : s.params.echoEnable = true
    · rw [if_pos henable, if_pos ⟨henable, hdecodes⟩]
      rfl
    · rw [if_neg henable, if_neg fun hboth => henable hboth.1, List.append_nil]
  · rw [hecho, if_neg fun hboth => hnot hboth.2, List.append_nil]

end Sys2Proof.Machine

/-! PROOF. The statements of 40_commands.md: what a `Drain` does with and without a command, and what each command writes. -/

namespace Sys2Proof

/-- The sync byte behind an opcode above the table is a decode event (30_encoding.md R62, R66 c). -/
theorem recognised_reserved {op : Byte} (par : Byte) (hop : 0x0C ≤ op.toNat) :
    recognised (Window.ofBytes op par 0xFF#8) = true := by
  have hne : op ≠ 0#8 := by
    rintro rfl
    exact absurd hop (by decide)
  exact (recognised_command par hne).1

/-- An opcode above the table is rejected by name, with its parameter (30_encoding.md R66 c). -/
theorem decodeWindow_reserved {op : Byte} (par : Byte) (hop : 0x0C ≤ op.toNat) :
    decodeWindow (Window.ofBytes op par 0xFF#8) = .error (.reservedOpcode op par) := by
  unfold decodeWindow
  rw [if_pos (recognised_reserved par hop), oldest_ofBytes, middle_ofBytes, (decodeOpcode_none op par).2 (.inr hop)]

end Sys2Proof

namespace Sys2Proof.Machine

/-! ## What a `Drain` does with each kind of window -/

/-- At `DRAIN` with the serializer idle, the thread's step is the `Drain` of the state it sees (40_commands.md R80). -/
theorem step_eq_drain {s : State} (hn : s.threadNext = true) (hidle : s.ser.state = .idle) (hm : s.ms = .drain) :
    step s = drain s.threadSees := by
  rw [step_thread hn, threadStep_drain (busy_eq_false.2 (by simpa using hidle)) (by simpa using hm)]

theorem drain_noCommand {s : State} (hr : recognised s.rxwin = false) : drain s = .next (startCycle s) := by
  unfold drain
  rw [hr]
  rfl

theorem drain_command {s : State} {i : Instr} (hd : decodeWindow s.rxwin = .ok i) :
    drain s = applyCommand i (decodeEvent s) := by
  unfold drain
  rw [if_pos (recognised_of_decodeWindow hd), hd]

/-- An opcode outside the table has its decode event and no other effect (40_commands.md R92). -/
theorem drain_reserved {s : State} {op par : Byte} (hw : s.rxwin = Window.ofBytes op par 0xFF#8)
    (hop : 0x0C ≤ op.toNat) : drain s = .next (startCycle (decodeEvent s)) := by
  unfold drain
  rw [hw, if_pos (recognised_reserved par hop), decodeWindow_reserved par hop]

/-! ## The command and the cycle after it -/

/-- RESET is exactly the command after which `Drain` starts no cycle (40_commands.md R80, R89). -/
theorem restartsSequencer_iff (i : Instr) : restartsSequencer i = true ↔ ∃ par, i = .reset par := by
  refine ⟨eq_reset_of_restartsSequencer, ?_⟩
  rintro ⟨par, rfl⟩
  rfl

/-- Settles O12: the step is the `Drain` of a window that decodes, and the command after which no cycle starts is RESET. -/
theorem stepRunsTheDecodedCommand : Obligations.StepRunsTheDecodedCommand := by
  intro s i hn hidle hm hd
  have hd' : decodeWindow s.threadSees.rxwin = .ok i := by rwa [threadSees_rxwin]
  rw [step_eq_drain hn hidle hm, drain_command hd']
  unfold applyCommand decodeEvent
  simp only [threadSees_rxwin, restartsSequencer_iff]
  rfl

/-- Settles O13: the cycle starts in the state the thread sees, which differs in the schedule alone. -/
theorem drainWithoutCommandStartsACycle : Obligations.DrainWithoutCommandStartsACycle := by
  intro s hn hidle hm hr
  rw [step_eq_drain hn hidle hm, drain_noCommand (by simpa using hr)]
  simp [startCycle]

/-- Settles O14: the step is a decode event and the start of a cycle, and neither writes any of the fields kept. -/
theorem unknownOpcodeHasNoEffect : Obligations.UnknownOpcodeHasNoEffect := by
  intro s op par hn hidle hm hw hop
  refine ⟨startCycle (decodeEvent s.threadSees), ?_, ?_⟩
  · rw [step_eq_drain hn hidle hm]
    exact drain_reserved ((threadSees_rxwin s).trans hw) hop
  · have hecho : (decodeEvent s.threadSees).echo = if s.params.echoEnable then s.echo ++ [op, par] else s.echo := by
      rw [decodeEvent_echo, threadSees_params, threadSees_echo, threadSees_rxwin, hw, oldest_ofBytes, middle_ofBytes]
    simp [hecho]

/-- Settles O22: a `Drain` has three cases, and each answers a next state. -/
theorem drainAlwaysCompletes : Obligations.DrainAlwaysCompletes :=
  fun _ hn hidle hm => step_completes_at_drain hn hidle hm

/-! ## What each command writes -/

/-- Settles O16: each of the five is one register write. -/
theorem displayCommandsWriteTheirRegister : Obligations.DisplayCommandsWriteTheirRegister :=
  fun _ _ => ⟨rfl, rfl, rfl, rfl, rfl⟩

/-- Settles O17: MODE is the write of its register and of the phase. -/
theorem modeCommandZeroesThePhase : Obligations.ModeCommandZeroesThePhase := fun _ _ => rfl

/-- Settles O18: the byte kept of `progressRegister` is `lo8` or `hi8` of it, and `join16` appends the two. -/
theorem halfCommandsWriteTheirByte : Obligations.HalfCommandsWriteTheirByte :=
  fun _ _ => ⟨rfl, rfl, rfl, rfl⟩

/-- RESET is the restart, whatever its parameter (40_commands.md R89). -/
theorem exec_reset (par : Byte) (s : State) : exec (.reset par) s = .next (restart s) := rfl

/-- Settles O19: the restart gives every field its reset value by definition, and the two halves of `SPEED_RESET` join to it. -/
theorem resetCommandRestarts : Obligations.ResetCommandRestarts := by
  intro par s
  have hspeed : (restart s).cfg.speed = s.params.speedReset := join16_hi8_lo8 s.params.speedReset
  exact ⟨restart s, exec_reset par s, rfl, rfl, rfl, rfl, rfl, rfl, hspeed, rfl, rfl, rfl, fun _ => rfl, rfl, rfl, rfl,
    rfl, rfl, rfl, rfl, fun par' => exec_reset par' s⟩

end Sys2Proof.Machine

/-! PROOF. The statements of 41_generator.md: the generator's functions, the byte writes of a cycle and the steps that
perform them, what an iteration of each mode paints, and that the enable does not gate it. -/

namespace Sys2Proof.Machine

/-! ## Scaling -/

/-- Settles O23: the quotient is exact where the brightness is legal, and dividing by 100 is monotone. -/
theorem scaleIsTruncatedPercentage : Obligations.ScaleIsTruncatedPercentage := by
  refine ⟨scale_toNat, ?_, ?_, ?_, ?_, by decide, by decide, by decide⟩
  · intro v
    apply BitVec.eq_of_toNat_eq
    rw [scale_toNat v 100#8 (by decide)]
    exact Nat.mul_div_cancel v.toNat (by decide)
  · intro v
    simp [scale]
  · intro b
    simp [scale]
  · intro v b1 b2 hle hb2
    rw [scale_toNat v b1 (hle.trans hb2), scale_toNat v b2 hb2]
    exact Nat.div_le_div_right (Nat.mul_le_mul_left _ hle)

/-! ## Phases -/

theorem phase_last (t s : Word16) (n : Nat) : phase t s n (n - 1) = t := by
  simp [phase]

/-- A pixel is one step from the pixel after it (41_generator.md R104). -/
theorem phase_succ (t s : Word16) {n i : Nat} (h : i + 1 < n) : phase t s n i = phase t s n (i + 1) + s := by
  have hsteps : n - 1 - i = n - 1 - (i + 1) + 1 := by omega
  unfold phase
  rw [hsteps, BitVec.ofNat_add, BitVec.add_mul, BitVec.one_mul, BitVec.add_assoc]

theorem phase_toNat (t s : Word16) (n i : Nat) :
    (phase t s n i).toNat = (t.toNat + (n - 1 - i) * s.toNat) % 65536 := by
  simp [phase, BitVec.toNat_add, BitVec.toNat_mul, Nat.mod_mul_mod]

/-- Settles O24: neighbours differ by the step of the direction, which is `0 - step` in Reverse. -/
theorem phasesAreAnchoredAtTheLastPixel : Obligations.PhasesAreAnchoredAtTheLastPixel := by
  intro t step n i _
  refine ⟨fun d => phase_last t _ n, fun h => phase_succ t _ h, fun h => ?_, phase_toNat t step n i⟩
  rw [phase_succ t _ h, BitVec.sub_eq_add_neg]
  simp [phaseStep]

/-! ## The raw-intensity functions -/

/-- No intermediate of `pulse` leaves 8 bits (41_generator.md R106). -/
theorem pulse_toNat (phi : Word16) : (pulse phi).toNat =
    if phi.toNat / 256 < 0x80 then phi.toNat / 256 * 2 else 255 - (phi.toNat / 256 - 0x80) * 2 := by
  unfold pulse phaseHigh
  rw [BitVec.toNat_ofNat]
  apply Nat.mod_eq_of_lt
  split <;> omega

/-- Settles O25: the two halves are the two branches of `pulse`. -/
theorem pulseIsTheTriangle : Obligations.PulseIsTheTriangle := by
  refine ⟨fun phi h => ?_, fun phi h => ?_, by decide, by decide, by decide, by decide⟩
  · rw [pulse_toNat, if_pos (by omega)]
    omega
  · have := phi.isLt
    rw [pulse_toNat, if_neg (by omega)]
    omega

/-- No intermediate of `mpulse` leaves 8 bits (41_generator.md R110). -/
theorem mpulse_toNat (phi : Word16) : (mpulse phi).toNat =
    if phi.toNat / 256 < 0x80 then 0
    else if phi.toNat / 256 < 0xC0 then (phi.toNat / 256 - 0x80) * 4 else 255 - (phi.toNat / 256 - 0xC0) * 4 := by
  unfold mpulse phaseHigh
  rw [BitVec.toNat_ofNat]
  apply Nat.mod_eq_of_lt
  split
  · decide
  · split <;> omega

/-- Settles O26: the three ranges are the three branches of `mpulse`. -/
theorem movingPulseIsTheWindow : Obligations.MovingPulseIsTheWindow := by
  refine ⟨fun phi h => ?_, fun phi hlow hhigh => ?_, fun phi h => ?_, by decide, by decide, by decide, by decide,
    by decide⟩
  · apply BitVec.eq_of_toNat_eq
    rw [mpulse_toNat, if_pos (by omega)]
    rfl
  · rw [mpulse_toNat, if_neg (by omega), if_pos (by omega)]
    omega
  · have := phi.isLt
    rw [mpulse_toNat, if_neg (by omega), if_neg (by omega)]
    omega

/-! ## The hue circle -/

/-- In every segment one channel is full and one is dark (41_generator.md R108). -/
theorem hueColour_full_and_dark (seg x : Nat) :
    ((hueColour seg x).r = 255#8 ∨ (hueColour seg x).g = 255#8 ∨ (hueColour seg x).b = 255#8) ∧
    ((hueColour seg x).r = 0#8 ∨ (hueColour seg x).g = 0#8 ∨ (hueColour seg x).b = 0#8) := by
  unfold hueColour
  split <;> simp

/-- A hue below the clamp is at its segment and position. -/
theorem rainbow_of_hue {phi : Word16} {seg x : Nat} (hx : x < 256) (hhue : hue phi = seg * 256 + x) :
    rainbow phi = hueColour seg x := by
  have hseg : hue phi / 256 = seg := by omega
  have hpos : hue phi % 256 = x := by omega
  unfold rainbow
  rw [hseg, hpos]

theorem hue_eq_of_segment {phi : Word16} {seg x : Nat} (hseg : seg ≤ 5) (hx : x < 256)
    (hq : phi.toNat / 42 = seg * 256 + x) : hue phi = seg * 256 + x := by
  unfold hue Config.rainbowDiv Config.rainbowMax
  omega

theorem hue_clamped {phi : Word16} (h : 0xFC00 ≤ phi.toNat) : hue phi = 5 * 256 + 255 := by
  unfold hue Config.rainbowDiv Config.rainbowMax
  omega

/-- Settles O27: the colour is `hueColour` of a segment and a position, and the clamp is the last position of the last
segment. -/
theorem rainbowRotatesTheHue : Obligations.RainbowRotatesTheHue := by
  refine ⟨fun phi => hueColour_full_and_dark _ _, fun k x phi hx hq => ?_, fun phi h => ?_⟩
  · have hrainbow (hk : k ≤ 5) : rainbow phi = hueColour k x := rainbow_of_hue hx (hue_eq_of_segment hk hx hq)
    refine ⟨?_, ?_, ?_, ?_, ?_, ?_⟩ <;>
    · rintro rfl
      exact hrainbow (by decide)
  · exact rainbow_of_hue (by decide) (hue_clamped h)

/-! ## The writes of a cycle -/

/-- The pixels of a frame come in ascending index, whatever the registers hold (41_generator.md R115). -/
theorem frame_ascending (c : Cfg) (t : Word16) (k : Nat) : (frame c t k).Pairwise (fun ip jp => ip.1 < jp.1) := by
  unfold frame
  split
  · rename_i m _
    obtain ⟨j, -, hr⟩ := paintedPixels_eq_range m c.pixelCount.toNat c.divisor.toNat
    rw [hr]
    split <;> exact List.pairwise_map.2 List.pairwise_lt_range
  · exact List.pairwise_map.2 (List.pairwise_lt_range.filter _)

/-- The writes of a pixel go to its own three bytes. -/
theorem addr_of_mem_pixelWrites {ip : Nat × Pixel} {w : ByteWrite} (h : w ∈ pixelWrites ip) :
    3 * ip.1 ≤ w.addr ∧ w.addr < 3 * (ip.1 + 1) := by
  simp only [pixelWrites, pixelAddr, List.mem_cons, List.not_mem_nil, or_false] at h
  rcases h with rfl | rfl | rfl <;> simp only <;> omega

theorem pixelWrites_ascending (ip : Nat × Pixel) : (pixelWrites ip).Pairwise (fun w w' => w.addr < w'.addr) := by
  simp [pixelWrites, pixelAddr]

/-- The byte writes of a cycle come in strictly ascending address order, whatever the registers hold. -/
theorem writes_ascending (c : Cfg) (t : Word16) (k : Nat) :
    (writes c t k).Pairwise (fun w w' => w.addr < w'.addr) := by
  refine List.pairwise_flatMap.2 ⟨fun ip _ => pixelWrites_ascending ip, (frame_ascending c t k).imp ?_⟩
  intro ip jp hlt w hw w' hw'
  obtain ⟨-, hbelow⟩ := addr_of_mem_pixelWrites hw
  obtain ⟨habove, -⟩ := addr_of_mem_pixelWrites hw'
  omega

/-- A cycle writes whole pixels: the addresses are those of R, G and B of each pixel of the frame. -/
theorem writes_addr (c : Cfg) (t : Word16) (k : Nat) : (writes c t k).map ByteWrite.addr =
    ((frame c t k).map Prod.fst).flatMap (fun i => [3 * i, 3 * i + 1, 3 * i + 2]) := by
  unfold writes
  rw [List.map_flatMap, List.flatMap_map]
  rfl

theorem writes_length (c : Cfg) (t : Word16) (k : Nat) : (writes c t k).length = 3 * (frame c t k).length := by
  simp [writes, List.length_flatMap, pixelWrites, Nat.mul_comm]

/-- Settles O28: the frame's pixels are active and ascend, and each gives three ascending addresses. -/
theorem cycleWritesAscendThroughActivePixels : Obligations.CycleWritesAscendThroughActivePixels :=
  fun c t k => ⟨writes_within c t k, List.pairwise_map.2 (writes_ascending c t k), _, writes_addr c t k⟩

/-! ## The frame buffer after the writes -/

/-- A byte that no write of the list names keeps its value. -/
theorem get_performWrites_of_not_written {m : Memory} {q : List ByteWrite} {a : Nat}
    (hm : Memory.risingFrom 0 m = true) (ha : ∀ w ∈ q, w.addr ≠ a) :
    Memory.get (performWrites m q) a = Memory.get m a := by
  induction q generalizing m with
  | nil => rfl
  | cons w q ih =>
    obtain ⟨hw, hq⟩ := List.forall_mem_cons.1 ha
    rw [performWrites, ih (Memory.risingFrom_put w.val hm (Nat.zero_le _)) hq, Memory.get_put hm, if_neg hw.symm]

/-- A byte that one write of the list names holds the value written. -/
theorem get_performWrites_of_written {m : Memory} {q : List ByteWrite} {w : ByteWrite}
    (hm : Memory.risingFrom 0 m = true) (hq : q.Pairwise (fun w w' => w.addr < w'.addr)) (hw : w ∈ q) :
    Memory.get (performWrites m q) w.addr = w.val := by
  induction q generalizing m with
  | nil => cases hw
  | cons v q ih =>
    obtain ⟨hv, hq⟩ := List.pairwise_cons.1 hq
    have hput := Memory.risingFrom_put v.val hm (Nat.zero_le v.addr)
    rw [performWrites]
    rcases List.mem_cons.1 hw with rfl | hw
    · rw [get_performWrites_of_not_written hput (fun w' hw' => (hv w' hw').ne'), Memory.get_put hm, if_pos rfl]
    · exact ih hput hq hw

/-- The writes of a cycle leave each pixel of its frame at the frame's colour. -/
theorem pixelAt_performWrites {m : Memory} {c : Cfg} {t : Word16} {k : Nat} {ip : Nat × Pixel}
    (hm : Memory.risingFrom 0 m = true) (h : ip ∈ frame c t k) :
    pixelAt (performWrites m (writes c t k)) ip.1 = ip.2 := by
  have hbyte (w : ByteWrite) (hw : w ∈ pixelWrites ip) :
      Memory.get (performWrites m (writes c t k)) w.addr = w.val :=
    get_performWrites_of_written hm (writes_ascending c t k) (List.mem_flatMap.2 ⟨ip, h, hw⟩)
  unfold pixelAt
  rw [hbyte ⟨pixelAddr ip.1 0, ip.2.r⟩ (by simp [pixelWrites]),
    hbyte ⟨pixelAddr ip.1 1, ip.2.g⟩ (by simp [pixelWrites]),
    hbyte ⟨pixelAddr ip.1 2, ip.2.b⟩ (by simp [pixelWrites])]

/-- The writes of a cycle leave every byte from `3 * k` on as it was, if its frame has only pixels below `k`. -/
theorem get_performWrites_above {m : Memory} {c : Cfg} {t : Word16} {d k a : Nat}
    (hm : Memory.risingFrom 0 m = true) (h : ∀ ip ∈ frame c t d, ip.1 < k) (ha : 3 * k ≤ a) :
    Memory.get (performWrites m (writes c t d)) a = Memory.get m a := by
  apply get_performWrites_of_not_written hm
  intro w hw
  obtain ⟨ip, hip, hw⟩ := List.mem_flatMap.1 hw
  have hbelow := h ip hip
  obtain ⟨-, haddr⟩ := addr_of_mem_pixelWrites hw
  omega

/-! ## The steps of a cycle -/

/-- In a cycle with the serializer idle, the thread's step is the `GenStep` of the state it sees (00_scope.md R4). -/
theorem step_eq_genStep {s : State} {q : List ByteWrite} (hn : s.threadNext = true) (hidle : s.ser.state = .idle)
    (hm : s.ms = .gen q) : step s = genStep q s.threadSees := by
  rw [step_thread hn, threadStep_gen (busy_eq_false.2 (by simpa using hidle)) (by simpa using hm)]

/-- The write at the head of a queue of the invariant is to a byte of the frame buffer, the count being within it. -/
theorem State.Inv.head_within {s : State} {w : ByteWrite} {q : List ByteWrite} (h : s.Inv) (hm : s.ms = .gen (w :: q))
    (hfits : s.cfg.pixelCount.toNat ≤ s.params.capacity) : w.addr < s.fbSize := by
  have hw := (queueWithin_gen hm).1 h.queue w List.mem_cons_self
  unfold State.fbSize
  omega

/-- The step of a cycle with a write left (41_generator.md R115). -/
theorem step_write {s : State} {w : ByteWrite} {q : List ByteWrite} (h : s.Inv) (hn : s.threadNext = true)
    (hidle : s.ser.state = .idle) (hm : s.ms = .gen (w :: q)) (hfits : s.cfg.pixelCount.toNat ≤ s.params.capacity) :
    step s = .next ((s.threadSees.setFb (Memory.put s.fb w.addr w.val)).setMs (.gen q)) := by
  have hfits' : s.threadSees.overCapacity = false := overCapacity_eq_false.2 (by simpa using hfits)
  have haddr : w.addr < s.threadSees.fbSize := by simpa [State.fbSize] using h.head_within hm hfits
  rw [step_eq_genStep hn hidle hm, genStep_cons q hfits' haddr, threadSees_fb]

/-- The last step of a cycle (41_generator.md R114). -/
theorem step_advance {s : State} (hn : s.threadNext = true) (hidle : s.ser.state = .idle) (hm : s.ms = .gen [])
    (hfits : s.cfg.pixelCount.toNat ≤ s.params.capacity) : step s = .next (endCycle s.threadSees) := by
  rw [step_eq_genStep hn hidle hm, genStep_nil (overCapacity_eq_false.2 (by simpa using hfits))]

/-- Settles O30: the step is one `put`, which in a buffer in canonical form changes the byte written alone. -/
theorem genStepWritesOneByte : Obligations.GenStepWritesOneByte := by
  intro s w q hinv hn hidle hm hfits
  have hread (a : Nat) := Memory.get_put_wf hinv.memory w.addr a w.val
  exact ⟨_, step_write hinv hn hidle hm hfits, (hread w.addr).trans (if_pos rfl),
    fun a ha => (hread a).trans (if_neg ha), by simp⟩

/-- Settles O31: the last step is the end of the cycle, which adds the speed view of the two registers. -/
theorem phaseAdvancesAtTheEndOfTheCycle : Obligations.PhaseAdvancesAtTheEndOfTheCycle := by
  intro s hn hidle hm hfits
  refine ⟨s.time + s.cfg.speed, ?_, ?_⟩
  · rw [step_advance hn hidle hm hfits]
    simp [endCycle]
  · rw [BitVec.toNat_add, Cfg.speed_toNat]

theorem runSteps_of_step {s t : State} (n : Nat) (h : step s = .next t) : runSteps (n + 1) s = runSteps n t := by
  rw [runSteps, h, andThen_next]

/-- Settles O32, by induction on the writes left, each of which keeps the invariant. -/
theorem cycleRunsToItsEnd : Obligations.CycleRunsToItsEnd := by
  intro s q
  induction q generalizing s with
  | nil =>
    intro hinv hagenda hidle hm hfits
    rw [List.length_nil, runSteps_of_step 0 (step_advance (threadNext_nil hagenda) hidle hm hfits),
      threadSees_nil hagenda]
    rfl
  | cons w q ih =>
    intro hinv hagenda hidle hm hfits
    have hstep := step_write hinv (threadNext_nil hagenda) hidle hm hfits
    rw [threadSees_nil hagenda] at hstep
    rw [List.length_cons, runSteps_of_step _ hstep]
    exact ih _ (write_inv hinv hidle hm (hinv.head_within hm hfits)) hagenda hidle rfl hfits

/-! ## One iteration of the main loop -/

theorem startCycle_inv {s : State} (h : s.Inv) : (startCycle s).Inv :=
  h.of_frame rfl rfl rfl rfl (startCycle_queueWithin s)

/-- A free iteration is the `Drain`, the writes of its cycle in their order, and the phase advance (40_commands.md R80,
41_generator.md R115). -/
theorem State.freeIteration.run {s : State} (h : s.freeIteration) :
    runSteps ((writes s.cfg s.time s.draws).length + 2) s = .next
      ((((startCycle s).setFb (performWrites s.fb (writes s.cfg s.time s.draws))).setTime
        (s.time + s.cfg.speed)).setMs .drain) := by
  have hdrain : step s = .next (startCycle s) := by
    rw [step_eq_drain (threadNext_nil h.agenda) h.idle h.atDrain, threadSees_nil h.agenda, drain_noCommand h.noCommand]
  rw [runSteps_of_step _ hdrain]
  exact cycleRunsToItsEnd (startCycle s) _ (startCycle_inv h.inv) h.agenda h.idle rfl h.fits

/-- A free iteration paints its frame, if that is the first `k` pixels. -/
theorem State.freeIteration.paints_of_frame {s : State} (h : s.freeIteration) {k : Nat} {colour : Nat → Pixel}
    (hframe : frame s.cfg s.time s.draws = (List.range k).map (fun i => (i, colour i))) : s.paints k colour := by
  have hrising := Memory.wf_rising h.inv.memory
  have hlength : (writes s.cfg s.time s.draws).length = 3 * k := by simp [writes_length, hframe]
  have hrun := h.run
  rw [hlength] at hrun
  refine ⟨_, hrun, fun i hi => ?_, fun a ha => ?_, by simp⟩
  · exact pixelAt_performWrites (ip := (i, colour i)) hrising (by simpa [hframe] using hi)
  · exact get_performWrites_above hrising (by simp [hframe]) ha

/-- A free iteration paints the colours of its mode, where the registers the mode reads are in their domains. -/
theorem State.freeIteration.paints_of_mode {s : State} (h : s.freeIteration) {m : Mode} {k : Nat} {colour : Nat → Pixel}
    (hmode : modeOf s.cfg.mode = some m) (hcolour : pixelColour s.cfg s.time m = some colour)
    (hpainted : paintedPixels m s.cfg.pixelCount.toNat s.cfg.divisor.toNat = List.range k) : s.paints k colour :=
  h.paints_of_frame (by rw [frame_defined _ _ hmode hcolour, hpainted])

/-! ## The colours of the modes -/

theorem brightnessOf_legal {v : Byte} (h : v.toNat ≤ 100) : brightnessOf v = some v := if_pos h

section
variable {c : Cfg} {ch : Channel} {d : Direction} (t : Word16)

theorem pixelColour_solid (hb : c.brightnessPercent.toNat ≤ 100) (hch : channelOf c.colorChannel = some ch) :
    pixelColour c t .solid = some (fun _ => solidPixel c.brightnessPercent ch) := by
  simp [pixelColour, brightnessOf_legal hb, hch]

theorem pixelColour_pulse (hb : c.brightnessPercent.toNat ≤ 100) (hch : channelOf c.colorChannel = some ch) :
    pixelColour c t .pulse = some (fun _ => pulsePixel c.brightnessPercent ch t) := by
  simp [pixelColour, brightnessOf_legal hb, hch]

theorem pixelColour_rainbow (hb : c.brightnessPercent.toNat ≤ 100) (hd : directionOf c.direction = some d) :
    pixelColour c t .rainbow = some (rainbowPixel c.brightnessPercent d t c.pixelCount.toNat) := by
  simp [pixelColour, brightnessOf_legal hb, hd]

theorem pixelColour_movingPulse (hb : c.brightnessPercent.toNat ≤ 100) (hch : channelOf c.colorChannel = some ch)
    (hd : directionOf c.direction = some d) :
    pixelColour c t .movingPulse = some (movingPulsePixel c.brightnessPercent ch d t c.pixelCount.toNat) := by
  simp [pixelColour, brightnessOf_legal hb, hch, hd]

theorem pixelColour_progressBar (hb : c.brightnessPercent.toNat ≤ 100) (hch : channelOf c.colorChannel = some ch) :
    pixelColour c t .progressBar =
      some (progressPixel c.brightnessPercent ch c.pixelCount.toNat c.divisor.toNat c.frac) := by
  simp [pixelColour, brightnessOf_legal hb, hch]

end

/-- A mode that places a scalar on the selected channel paints it there for each of the three colour registers
(10_state.md R14, 41_generator.md R103). -/
theorem paints_by_channel {s : State} {k : Nat} {v : Nat → Byte}
    (h : ∀ ch, channelOf s.cfg.colorChannel = some ch → s.paints k (fun i => place (v i) ch)) :
    (s.cfg.colorChannel = 0#8 → s.paints k (fun i => ⟨v i, 0#8, 0#8⟩)) ∧
    (s.cfg.colorChannel = 1#8 → s.paints k (fun i => ⟨0#8, 0#8, v i⟩)) ∧
    (s.cfg.colorChannel = 2#8 → s.paints k (fun i => ⟨0#8, v i, 0#8⟩)) :=
  ⟨fun hc => h .red (by rw [hc]; rfl), fun hc => h .blue (by rw [hc]; rfl), fun hc => h .green (by rw [hc]; rfl)⟩

/-! ## What an iteration of each mode paints -/

/-- Settles O33: the frame of Solid is `solidPixel` at every active pixel. -/
theorem solidCyclePaintsTheSelectedChannel : Obligations.SolidCyclePaintsTheSelectedChannel := by
  intro s hfree hmode hb v
  exact paints_by_channel (v := fun _ => v) fun ch hch =>
    hfree.paints_of_mode (by rw [hmode]; rfl) (pixelColour_solid s.time hb hch) rfl

/-- Settles O34: the frame of Pulse is `pulsePixel` at every active pixel. -/
theorem pulseCyclePaintsTheSharedPhase : Obligations.PulseCyclePaintsTheSharedPhase := by
  intro s hfree hmode hb v
  exact paints_by_channel (v := fun _ => v) fun ch hch =>
    hfree.paints_of_mode (by rw [hmode]; rfl) (pixelColour_pulse s.time hb hch) rfl

/-- Settles O35: the frame of Rainbow is `rainbowPixel` at every active pixel, with the step of the direction. -/
theorem rainbowCyclePaintsTheHueSweep : Obligations.RainbowCyclePaintsTheHueSweep := by
  intro s hfree hmode hb n b colour
  have hpaints (d : Direction) (hd : directionOf s.cfg.direction = some d) :
      s.paints n (colour (phaseStep Config.rainbowStep d)) :=
    hfree.paints_of_mode (by rw [hmode]; rfl) (pixelColour_rainbow s.time hb hd) rfl
  exact ⟨fun hd => hpaints .forward (by rw [hd]; rfl), fun hd => hpaints .reverse (by rw [hd]; rfl)⟩

/-- Settles O36: the frame of MovingPulse is `movingPulsePixel` at every active pixel, with the step of the direction. -/
theorem movingPulseCyclePaintsTheWindow : Obligations.MovingPulseCyclePaintsTheWindow := by
  intro s hfree hmode hb d hdir n v
  obtain ⟨dir, hd, rfl⟩ : ∃ dir, directionOf s.cfg.direction = some dir ∧ d = phaseStep Config.movingPulseStep dir := by
    rcases hdir with ⟨hd, rfl⟩ | ⟨hd, rfl⟩
    · exact ⟨.forward, by rw [hd]; rfl, rfl⟩
    · exact ⟨.reverse, by rw [hd]; rfl, rfl⟩
  exact paints_by_channel (v := v) fun ch hch =>
    hfree.paints_of_mode (by rw [hmode]; rfl) (pixelColour_movingPulse s.time hb hch hd) rfl

/-- The pixels of a bar: the full ones and the partial one, if there is room for it (41_generator.md R112). -/
theorem paintedPixels_progressBar {n divisor : Nat} (h : divisor ≠ 0) :
    paintedPixels .progressBar n divisor = List.range (if n / divisor < n then n / divisor + 1 else n) := by
  have hbar : min n (n / divisor + 1) = if n / divisor < n then n / divisor + 1 else n := by
    split <;> omega
  rw [← hbar]
  exact if_neg h

/-- Settles O37: the frame of ProgressBar is `progressPixel` at the pixels of the bar. -/
theorem progressBarPaintsUpToTheBar : Obligations.ProgressBarPaintsUpToTheBar := by
  intro s hfree hmode hb hdiv n full v painted
  have hdivisor : s.cfg.divisor.toNat ≠ 0 := fun h0 => hdiv (BitVec.eq_of_toNat_eq h0)
  exact paints_by_channel (v := v) fun ch hch =>
    hfree.paints_of_mode (by rw [hmode]; rfl) (pixelColour_progressBar s.time hb hch) (paintedPixels_progressBar hdivisor)

/-- With divisor 0 the frame of ProgressBar is empty, whatever the brightness and the colour (41_generator.md R113). -/
theorem frame_progressBar_zero {c : Cfg} (t : Word16) (k : Nat) (hmode : modeOf c.mode = some .progressBar)
    (hdiv : c.divisor = 0#8) : frame c t k = [] := by
  have hpainted : paintedPixels .progressBar c.pixelCount.toNat c.divisor.toNat = [] := if_pos (by rw [hdiv]; rfl)
  unfold frame
  simp only [hmode]
  split <;> simp [hpainted]

/-- Settles O38: the frame is empty. -/
theorem progressBarWithDivisorZeroWritesNothing : Obligations.ProgressBarWithDivisorZeroWritesNothing := by
  intro s hfree hmode hdiv
  exact hfree.paints_of_frame (frame_progressBar_zero s.time s.draws (by rw [hmode]; rfl) hdiv)

/-! ## The enable does not gate the generator

A write of the register `enabled` commutes with every part of the main sequencer's step without a command. -/

theorem threadSees_writeReg (r : CfgPort) (v : Byte) (s : State) :
    (writeReg r v s).threadSees = writeReg r v s.threadSees := by
  unfold State.threadSees
  rw [writeReg_agenda]
  split <;> rfl

/-- The writes of a cycle do not depend on the enable (41_generator.md R118). -/
theorem startCycle_writeReg_enabled (v : Byte) (s : State) :
    startCycle (writeReg .enabled v s) = writeReg .enabled v (startCycle s) := rfl

theorem memWrite_writeReg (r : CfgPort) (v : Byte) (s : State) (a : Nat) (x : Byte) :
    memWrite (writeReg r v s) a x = (memWrite s a x).map (writeReg r v) := by
  have hsize : (writeReg r v s).fbSize = s.fbSize := rfl
  unfold memWrite
  rw [hsize]
  split <;> rfl

/-- A `GenStep` does not read the enable (41_generator.md R118). -/
theorem genStep_writeReg_enabled (q : List ByteWrite) (v : Byte) (s : State) :
    genStep q (writeReg .enabled v s) = andThen (genStep q s) (fun t => .next (writeReg .enabled v t)) := by
  have hover : (writeReg .enabled v s).overCapacity = s.overCapacity := rfl
  unfold genStep
  rw [hover]
  cases s.overCapacity with
  | true => rfl
  | false =>
    cases q with
    | nil => rfl
    | cons w rest =>
      simp only [memWrite_writeReg]
      cases memWrite s w.addr w.val <;> rfl

/-- Settles O39: at `DRAIN` the step starts a cycle and in a cycle it is a `GenStep`; neither reads the enable. -/
theorem enableDoesNotGateTheGenerator : Obligations.EnableDoesNotGateTheGenerator := by
  intro s v hn hidle hr
  show step (writeReg .enabled v s) = andThen (step s) (fun t => .next (writeReg .enabled v t))
  have hn' : (writeReg .enabled v s).threadNext = true := hn
  cases hm : s.ms with
  | drain =>
    rw [step_eq_drain hn hidle hm, step_eq_drain (s := writeReg .enabled v s) hn' hidle hm, threadSees_writeReg,
      drain_noCommand (by simpa using hr), drain_noCommand (by simpa using hr), startCycle_writeReg_enabled]
    rfl
  | gen q =>
    rw [step_eq_genStep hn hidle hm, step_eq_genStep (s := writeReg .enabled v s) hn' hidle hm, threadSees_writeReg,
      genStep_writeReg_enabled]

end Sys2Proof.Machine

/-! PROOF. The statements of 42_serializer.md: what a frame is on the data line, the tick, and the transmission unit by unit. -/

namespace Sys2Proof.Machine

/-! ## Lists made of blocks of one length -/

/-- Position `m` of block `i`, where every element gives a block of `n`. -/
theorem getElem?_flatMap_blocks {α β : Type} {f : α → List β} {n : Nat} (hf : ∀ a, (f a).length = n) (l : List α)
    (i : Nat) {m : Nat} (hm : m < n) : (l.flatMap f)[n * i + m]? = l[i]?.bind (fun a => (f a)[m]?) := by
  induction l generalizing i with
  | nil => simp
  | cons a l ih =>
    rw [List.flatMap_cons]
    cases i with
    | zero =>
      rw [List.getElem?_append_left (by rw [hf, Nat.mul_zero, Nat.zero_add]; exact hm)]
      simp
    | succ i =>
      rw [List.getElem?_append_right (by rw [hf, Nat.mul_succ]; omega), hf,
        show n * (i + 1) + m - n = n * i + m by rw [Nat.mul_succ]; omega, ih]
      simp

theorem length_flatMap_blocks {α β : Type} {f : α → List β} {n : Nat} (hf : ∀ a, (f a).length = n) (l : List α) :
    (l.flatMap f).length = n * l.length := by
  simp [List.length_flatMap, hf, Nat.mul_comm]

/-! ## The bits of a frame (42_serializer.md R133, R134) -/

theorem bits8_length (v : Byte) : (bits8 v).length = 8 := rfl

/-- Bit `m` of a byte on the wire: most significant first (42_serializer.md R134). -/
theorem bits8_getElem? (v : Byte) {m : Nat} (hm : m < 8) : (bits8 v)[m]? = some (v.getLsbD (7 - m)) := by
  interval_cases m <;> rfl

theorem pixbits_length (p : Pixel) : (pixbits p).length = 24 := rfl

/-- Bit `m` of byte `k` of a pixel on the wire (42_serializer.md R133, R134). -/
theorem pixbits_getElem? (p : Pixel) {k m : Nat} {v : Byte} (hv : (pixbytes p)[k]? = some v) (hm : m < 8) :
    (pixbits p)[8 * k + m]? = some (v.getLsbD (7 - m)) := by
  unfold pixbits
  rw [getElem?_flatMap_blocks bits8_length _ k hm, hv, Option.bind_some, bits8_getElem? v hm]

theorem framebits_length (px : List Pixel) : (framebits px).length = 24 * px.length :=
  length_flatMap_blocks pixbits_length px

/-- Bit `m` of byte `k` of pixel `i` on the wire. -/
theorem framebits_getElem? {px : List Pixel} {i k m : Nat} {p : Pixel} {v : Byte} (hp : px[i]? = some p)
    (hk : k < 3) (hv : (pixbytes p)[k]? = some v) (hm : m < 8) :
    (framebits px)[24 * i + (8 * k + m)]? = some (v.getLsbD (7 - m)) := by
  unfold framebits
  rw [getElem?_flatMap_blocks pixbits_length px i (by omega), hp, Option.bind_some, pixbits_getElem? p hv hm]

/-- Settles O47: the bytes of a pixel are at the positions 0, 1 and 2 of its blocks of eight bits. -/
theorem wireOrderIsGreenRedBlueMsbFirst : Obligations.WireOrderIsGreenRedBlueMsbFirst := by
  intro px
  refine ⟨framebits_length px, fun i m p hp hm => ?_⟩
  rw [Nat.add_assoc, Nat.add_assoc]
  refine ⟨?_, framebits_getElem? (k := 1) hp (by decide) rfl hm, framebits_getElem? (k := 2) hp (by decide) rfl hm⟩
  simpa using framebits_getElem? (k := 0) hp (by decide) rfl hm

/-! ## The waveform of a frame (42_serializer.md R135 to R137) -/

/-- The levels of a bit's three units: high, the bit, low (42_serializer.md R135). -/
def bitCell (bit : Bool) : List Bool := [true, bit, false]

theorem bitCell_length (bit : Bool) : (bitCell bit).length = 3 := rfl

theorem wave_symbolOf (latchUnits : Nat) (bit : Bool) : wave latchUnits (symbolOf bit) = bitCell bit := by
  cases bit <;> rfl

theorem wave_latch (latchUnits : Nat) : wave latchUnits .latch = List.replicate latchUnits false := rfl

/-- The serializer's level in unit `u` of a bit is the cell's (42_serializer.md R138). -/
theorem bitCell_getElem? (bit : Bool) (u : Fin 3) : (bitCell bit)[u.val]? = some (cellLevel u.val bit) := by
  fin_cases u <;> rfl

/-- The waveform of a frame is the cells of its bits, then the latch (42_serializer.md R137). -/
theorem frameWave_eq (latchUnits : Nat) (px : List Pixel) : frameWave latchUnits px =
    (framebits px).flatMap bitCell ++ List.replicate latchUnits false := by
  unfold frameWave frameSymbols
  simp [List.flatMap_append, List.flatMap_map, wave_symbolOf, wave_latch]

theorem cells_length (px : List Pixel) :
    ((framebits px).flatMap bitCell).length = 72 * px.length := by
  rw [length_flatMap_blocks bitCell_length, framebits_length]
  exact (Nat.mul_assoc 3 24 _).symm

theorem frameWave_length (latchUnits : Nat) (px : List Pixel) :
    (frameWave latchUnits px).length = 72 * px.length + latchUnits := by
  rw [frameWave_eq, List.length_append, cells_length, List.length_replicate]

/-- Unit `u` of the cell of bit `j` (42_serializer.md R135). -/
theorem frameWave_getElem?_cell (latchUnits : Nat) {px : List Pixel} {j u : Nat} {bit : Bool}
    (hj : (framebits px)[j]? = some bit) (hu : u < 3) :
    (frameWave latchUnits px)[3 * j + u]? = (bitCell bit)[u]? := by
  obtain ⟨hlt, -⟩ := List.getElem?_eq_some_iff.1 hj
  rw [framebits_length] at hlt
  rw [frameWave_eq, List.getElem?_append_left (by rw [cells_length]; omega),
    getElem?_flatMap_blocks bitCell_length _ j hu, hj, Option.bind_some]

theorem frameWave_drop_cells (latchUnits : Nat) (px : List Pixel) :
    (frameWave latchUnits px).drop (72 * px.length) = List.replicate latchUnits false := by
  rw [frameWave_eq]
  exact List.drop_left' (cells_length px)

/-- A frame with a pixel starts high. -/
theorem frameWave_head? (latchUnits : Nat) {px : List Pixel} (h : px ≠ []) :
    (frameWave latchUnits px).head? = some true := by
  have hpos : 0 < (framebits px).length := by
    have := List.length_pos_iff.2 h
    rw [framebits_length]
    omega
  rw [List.head?_eq_getElem?]
  exact frameWave_getElem?_cell latchUnits (j := 0) (u := 0) (List.getElem?_eq_getElem hpos) (by decide)

/-- Settles O48: the waveform is the cells, each of three units, and the latch. -/
theorem frameWaveIsCellsAndALatch : Obligations.FrameWaveIsCellsAndALatch := by
  intro latchUnits px
  refine ⟨?_, frameWave_length latchUnits px, frameWave_head? latchUnits, frameWave_drop_cells latchUnits px,
    fun j bit hj => ⟨?_, ?_, ?_⟩⟩
  · simp [frameSymbols, framebits_length]
  · exact frameWave_getElem?_cell latchUnits (u := 0) hj (by decide)
  · exact frameWave_getElem?_cell latchUnits (u := 1) hj (by decide)
  · exact frameWave_getElem?_cell latchUnits (u := 2) hj (by decide)

/-! ## The pixels of a frame -/

theorem sentPixels_length (m : Memory) (en : Bool) (n : Nat) : (sentPixels m en n).length = n := by
  simp [sentPixels]

theorem sentPixels_getElem? (m : Memory) (en : Bool) {n i : Nat} (h : i < n) :
    (sentPixels m en n)[i]? = some (if en then pixelAt m i else Pixel.black) := by
  simp [sentPixels, h]

/-- The wire order reads the channels 1, 0 and 2 of the storage order (42_serializer.md R133, 20_memory.md R41). -/
theorem pixbytes_pixelAt (m : Memory) (i : Nat) (k : Fin 3) :
    (pixbytes (pixelAt m i))[k.val]? = some (Memory.get m (pixelAddr i (wireChannel k.val))) := by
  fin_cases k <;> rfl

theorem pixbytes_black (k : Fin 3) : (pixbytes Pixel.black)[k.val]? = some 0#8 := by
  fin_cases k <;> rfl

/-- A disabled frame is black (42_serializer.md R132). -/
theorem sentPixels_disabled (m : Memory) (n : Nat) : sentPixels m false n = List.replicate n Pixel.black := by
  simp [sentPixels, List.map_const']

/-- A black frame is `24 * n` zero bits and the latch (42_serializer.md R132). -/
theorem frameSymbols_black (n : Nat) :
    frameSymbols (List.replicate n Pixel.black) = List.replicate (24 * n) .b0 ++ [.latch] := by
  have hbits : framebits (List.replicate n Pixel.black) = List.replicate (24 * n) false := by
    refine List.eq_replicate_iff.2 ⟨by rw [framebits_length, List.length_replicate], fun bit hbit => ?_⟩
    obtain ⟨p, hp, hbit⟩ := List.mem_flatMap.1 hbit
    rw [List.eq_of_mem_replicate hp] at hbit
    exact (by decide : ∀ b ∈ pixbits Pixel.black, b = false) bit hbit
  rw [frameSymbols, hbits, List.map_replicate]
  rfl

/-! ## The tick -/

theorem serializerStart_state {count : Byte} (en : Bool) (h : count ≠ 0#8) :
    (serializerStart en count).state = .shift := if_neg h

/-- The level at the start of a frame: high if there is a pixel, all of them being pixels of the frame buffer. -/
theorem lineLevel_start {s : State} (en : Bool) (hfits : s.cfg.pixelCount.toNat ≤ s.params.capacity) :
    lineLevel (s.setSer (serializerStart en s.cfg.pixelCount)) = some (decide (s.cfg.pixelCount ≠ 0#8)) := by
  by_cases hc : s.cfg.pixelCount = 0#8
  · rw [lineLevel_latch (if_pos hc)]
    simp [hc]
  · have hpos : s.cfg.pixelCount.toNat ≠ 0 := fun h0 => hc (BitVec.eq_of_toNat_eq h0)
    unfold lineLevel
    rw [State.setSer_ser, serializerStart_state en hc, currentByte_within (by
      show 0 < s.params.capacity
      omega)]
    simp [hc, cellLevel, serializerStart]

/-- The state after an accepted tick (42_serializer.md R131, R138). -/
def tickTaken (s : State) : State :=
  ((s.setSer (serializerStart (capturedEnable s) s.cfg.pixelCount)).setDraws (s.draws + captureDraws s)).setDout
    (decide (s.cfg.pixelCount ≠ 0#8))

/-- A tick with the serializer idle and the count within the capacity is accepted. -/
theorem takeTick_accepted {s : State} (hidle : s.ser.state = .idle)
    (hfits : s.cfg.pixelCount.toNat ≤ s.params.capacity) : takeTick s = .next (tickTaken s) := by
  unfold takeTick
  rw [busy_eq_false.2 hidle, overCapacity_eq_false.2 hfits]
  exact driveLine_of_level (lineLevel_start (capturedEnable s) hfits)

theorem capturedEnable_off {s : State} (h : s.cfg.enabled = 0#8) : capturedEnable s = false := by
  unfold capturedEnable
  rw [h]
  rfl

theorem capturedEnable_on {s : State} (h : s.cfg.enabled = 1#8) : capturedEnable s = true := by
  unfold capturedEnable
  rw [h]
  rfl

/-- Settles O41: the tick is accepted, and the state after it differs in the serializer, the line, the schedule and the
index of the free values. -/
theorem tickCapturesAndStarts : Obligations.TickCapturesAndStarts := by
  intro s rest ha hidle hfits
  refine ⟨tickTaken (s.setAgenda rest), (step_tick ha).trans (takeTick_accepted hidle hfits), rfl,
    fun h => capturedEnable_off h, fun h => capturedEnable_on h, rfl, rfl, rfl, rfl, rfl, rfl, rfl, ?_⟩
  simp [tickTaken]

/-- Settles O42: the tick looks at the serializer first. -/
theorem tickWhileBusyIsOverrun : Obligations.TickWhileBusyIsOverrun := by
  intro s rest ha hbusy
  have hb : (s.setAgenda rest).busy = true := busy_eq_true.2 hbusy
  rw [step_tick ha]
  exact if_pos hb

/-! ## The position of the serializer as a number of units -/

/-- The units of the frame driven before the one the position stands at: 72 a pixel, 24 a byte, 3 a bit; in LATCH, those
of all the pixels and the units of the latch (42_serializer.md R137, R138). -/
def Serializer.unitsBefore (z : Serializer) : Nat :=
  match z.state with
  | .idle => 0
  | .shift => 3 * (24 * z.pix.toNat + (8 * z.byte.val + (7 - z.bit.val))) + z.unit.val
  | .latch => 72 * z.count.toNat + z.latch

theorem unitsBefore_shift {z : Serializer} (h : z.state = .shift) :
    z.unitsBefore = 3 * (24 * z.pix.toNat + (8 * z.byte.val + (7 - z.bit.val))) + z.unit.val := by
  unfold Serializer.unitsBefore
  rw [h]

theorem unitsBefore_latch {z : Serializer} (h : z.state = .latch) :
    z.unitsBefore = 72 * z.count.toNat + z.latch := by
  unfold Serializer.unitsBefore
  rw [h]

theorem unitsBefore_start (en : Bool) (count : Byte) : (serializerStart en count).unitsBefore = 0 := by
  by_cases hc : count = 0#8
  · rw [unitsBefore_latch (if_pos hc), hc]
    rfl
  · rw [unitsBefore_shift (serializerStart_state en hc)]
    rfl

/-- An advance in SHIFT is one unit further, into LATCH after the last pixel's last unit. -/
theorem unitsBefore_advanceShift {z : Serializer} (hst : z.state = .shift) (hpix : z.pix.toNat < z.count.toNat)
    (hlatch : z.latch = 0) : (advanceShift z).unitsBefore = z.unitsBefore + 1 := by
  have hcount := z.count.isLt
  have hbit := z.bit.isLt
  rw [unitsBefore_shift hst]
  unfold advanceShift
  dsimp only
  split
  · rw [unitsBefore_shift (by exact hst)]
    simp only [Fin.ofNat]
    omega
  · split
    · rw [unitsBefore_shift (by exact hst)]
      simp only [Fin.ofNat, Fin.val_zero]
      omega
    · split
      · rw [unitsBefore_shift (by exact hst)]
        simp only [Fin.ofNat, Fin.val_zero]
        omega
      · split
        · rw [unitsBefore_shift (by exact hst)]
          simp only [BitVec.toNat_add, BitVec.toNat_ofNat]
          omega
        · rw [unitsBefore_latch rfl]
          simp only
          omega

/-! ## The frame in transmission -/

/-- The waveform of the frame in transmission, of what the tick has captured. -/
def State.sentWave (s : State) : List Bool :=
  frameWave s.params.tLatchUnits (sentPixels s.fb s.ser.en s.ser.count.toNat)

/-- The units of the frame in transmission. -/
def State.sentUnits (s : State) : Nat := 72 * s.ser.count.toNat + s.params.tLatchUnits

theorem sentWave_length (s : State) : s.sentWave.length = s.sentUnits := by
  unfold State.sentWave State.sentUnits
  rw [frameWave_length, sentPixels_length]

/-- The current byte is the one at the serializer's place in the wire order of the current pixel
(42_serializer.md R133, R138). -/
theorem currentByte_eq_sent {s : State} (h : s.ser.pix.toNat < s.params.capacity) :
    currentByte s =
      (pixbytes (if s.ser.en then pixelAt s.fb s.ser.pix.toNat else Pixel.black))[s.ser.byte.val]? := by
  rw [currentByte_within h]
  split
  · rw [pixbytes_pixelAt]
  · rw [pixbytes_black]

/-- In SHIFT the level of a position is the waveform's at its unit (42_serializer.md R137, R138). -/
theorem sentWave_getElem?_shift {s : State} (hlegal : s.serializerLegal) (hst : s.ser.state = .shift) :
    s.sentWave[s.ser.unitsBefore]? = lineLevel s := by
  obtain ⟨hpix, hcount, -⟩ := (serializerLegal_shift hst).1 hlegal
  have hcap := hpix.trans_le hcount
  have hbit := s.ser.bit.isLt
  obtain ⟨cur, hcur⟩ : ∃ cur, currentByte s = some cur := ⟨_, currentByte_within hcap⟩
  have hsent : (framebits (sentPixels s.fb s.ser.en s.ser.count.toNat))[
      24 * s.ser.pix.toNat + (8 * s.ser.byte.val + (7 - s.ser.bit.val))]? = some (cur.getLsbD s.ser.bit.val) := by
    rw [framebits_getElem? (sentPixels_getElem? s.fb s.ser.en hpix) s.ser.byte.isLt
      ((currentByte_eq_sent hcap).symm.trans hcur) (by omega), Nat.sub_sub_self (by omega)]
  unfold State.sentWave lineLevel
  rw [unitsBefore_shift hst, frameWave_getElem?_cell _ hsent s.ser.unit.isLt, bitCell_getElem?, hst, hcur]
  rfl

/-- In LATCH the waveform is low (42_serializer.md R136). -/
theorem sentWave_getElem?_latch {s : State} (hlegal : s.serializerLegal) (hst : s.ser.state = .latch) :
    s.sentWave[s.ser.unitsBefore]? = some false := by
  have hdrop := frameWave_drop_cells s.params.tLatchUnits (sentPixels s.fb s.ser.en s.ser.count.toNat)
  rw [sentPixels_length] at hdrop
  unfold State.sentWave
  rw [unitsBefore_latch hst, ← List.getElem?_drop, hdrop, List.getElem?_replicate,
    if_pos ((serializerLegal_latch hst).1 hlegal)]

/-- The level of a busy serializer's position is the waveform's at its unit. -/
theorem sentWave_getElem? {s : State} (hlegal : s.serializerLegal) (hbusy : s.ser.state ≠ .idle) :
    s.sentWave[s.ser.unitsBefore]? = lineLevel s := by
  cases hst : s.ser.state with
  | idle => exact absurd hst hbusy
  | shift => exact sentWave_getElem?_shift hlegal hst
  | latch => rw [sentWave_getElem?_latch hlegal hst, lineLevel_latch hst]

/-- A unit of a frame that is not its last: the serializer is one unit further in the same frame. -/
theorem unitStep_within {s : State} (h : s.Inv) (hbusy : s.ser.state ≠ .idle)
    (hlt : s.ser.unitsBefore + 1 < s.sentUnits) :
    ∃ z l, unitStep s = .next ((s.setSer z).setDout l) ∧ z.state ≠ .idle ∧
      z.unitsBefore = s.ser.unitsBefore + 1 ∧ z.count = s.ser.count ∧ z.en = s.ser.en := by
  cases hst : s.ser.state with
  | idle => exact absurd hst hbusy
  | shift =>
    obtain ⟨hpix, -, hlatch⟩ := (serializerLegal_shift hst).1 h.serializer
    obtain ⟨hnext, -, hcount, hen, -⟩ := advanceShift_spec s.ser hst hpix
    have hbusy' : (advanceShift s.ser).state ≠ .idle := by
      rcases hnext with hn | hn <;> rw [hn] <;> simp
    have hunits := unitsBefore_advanceShift hst hpix hlatch
    obtain ⟨l, hl⟩ : ∃ l, lineLevel (s.setSer (advanceShift s.ser)) = some l := by
      refine ⟨_, (sentWave_getElem? (advanceShift_legal h.params h.serializer hst) hbusy').symm.trans
        (List.getElem?_eq_getElem ?_)⟩
      rw [sentWave_length]
      simpa [State.sentUnits, hunits, hcount] using hlt
    exact ⟨_, l, unitStep_shift hst hl, hbusy', hunits, hcount, hen⟩
  | latch =>
    rw [unitsBefore_latch hst] at hlt
    refine ⟨_, false, unitStep_latch hst (by unfold State.sentUnits at hlt; omega), by simp [hst], ?_, rfl, rfl⟩
    rw [unitsBefore_latch (by exact hst), unitsBefore_latch hst, Nat.add_assoc]

/-- The last unit of a frame, the end of its latch: the frame is appended to `line` and the line is low. -/
theorem unitStep_last {s : State} (h : s.Inv) (hbusy : s.ser.state ≠ .idle)
    (hlast : s.ser.unitsBefore + 1 = s.sentUnits) :
    unitStep s = .next (((returnFromTick s).setSer { s.ser with state := .idle }).setDout false) := by
  obtain ⟨-, -, hpos⟩ := h.params
  unfold State.sentUnits at hlast
  cases hst : s.ser.state with
  | idle => exact absurd hst hbusy
  | shift =>
    obtain ⟨hpix, -, -⟩ := (serializerLegal_shift hst).1 h.serializer
    rw [unitsBefore_shift hst] at hlast
    omega
  | latch =>
    rw [unitsBefore_latch hst] at hlast
    exact unitStep_latch_last hst (by omega)

/-! ## A transmission left alone -/

/-- The step of a busy serializer with nothing scheduled is a unit (20_memory.md R48). -/
theorem step_eq_unitStep {s : State} (hagenda : s.agenda = []) (hbusy : s.ser.state ≠ .idle) : step s = unitStep s := by
  rw [step_thread (threadNext_nil hagenda), threadSees_nil hagenda, threadStep_busy (busy_eq_true.2 hbusy)]

theorem levels_of_step {s t : State} (n : Nat) (h : step s = .next t) : levels (n + 1) s = s.dout :: levels n t := by
  rw [levels, h]

/-- The state at the end of the frame in transmission, with the serializer at the position `z`. -/
def frameSent (s : State) (z : Serializer) : State := ((returnFromTick s).setSer z).setDout false

/-- The end of a frame depends on the position on the way to it only through what the tick has captured. -/
theorem frameSent_of_position {s : State} {z : Serializer} (l : Bool) (w : Serializer) (hcount : z.count = s.ser.count)
    (hen : z.en = s.ser.en) : frameSent ((s.setSer z).setDout l) w = frameSent s w := by
  unfold frameSent returnFromTick
  simp only [State.setDout_ser, State.setSer_ser, hcount, hen]
  rfl

/-- What is left of the waveform at a busy position begins with the level of the line. -/
theorem sentWave_drop_unitsBefore {s : State} (h : s.Inv) (hbusy : s.ser.state ≠ .idle) :
    s.sentWave.drop s.ser.unitsBefore = s.dout :: s.sentWave.drop (s.ser.unitsBefore + 1) := by
  obtain ⟨hlt, hlevel⟩ := List.getElem?_eq_some_iff.1 ((sentWave_getElem? h.serializer hbusy).trans h.level)
  rw [List.drop_eq_getElem_cons hlt, hlevel]

/-- From a position with `k + 1` units left, with nothing scheduled, the line takes what is left of the waveform, and the
frame ends with the serializer idle: by induction on the units left. -/
theorem transmission_from_position {s : State} (k : Nat) (h : s.Inv) (hagenda : s.agenda = [])
    (hbusy : s.ser.state ≠ .idle) (hleft : s.ser.unitsBefore + (k + 1) = s.sentUnits) :
    levels (k + 1) s = s.sentWave.drop s.ser.unitsBefore ∧
    ∃ z, z.state = .idle ∧ runSteps (k + 1) s = .next (frameSent s z) := by
  have hunit := step_eq_unitStep hagenda hbusy
  induction k generalizing s with
  | zero =>
    have hstep := hunit.trans (unitStep_last h hbusy hleft)
    rw [levels_of_step 0 hstep, runSteps_of_step 0 hstep, sentWave_drop_unitsBefore h hbusy,
      List.drop_eq_nil_of_le (by rw [sentWave_length, ← hleft])]
    exact ⟨rfl, _, rfl, rfl⟩
  | succ k ih =>
    obtain ⟨z, l, hnext, hz, hunits, hcount, hen⟩ := unitStep_within h hbusy (by omega)
    have hwave : ((s.setSer z).setDout l).sentWave = s.sentWave := by simp [State.sentWave, hcount, hen]
    have htotal : ((s.setSer z).setDout l).sentUnits = s.sentUnits := by simp [State.sentUnits, hcount]
    have hstep := hunit.trans hnext
    obtain ⟨hlevels, w, hw, hrun⟩ := ih (s := (s.setSer z).setDout l) (unitStep_inv h hnext) hagenda hz
      (by rw [htotal, ← hleft]; simp only [State.setDout_ser, State.setSer_ser, hunits]; omega)
      (step_eq_unitStep hagenda hz)
    rw [levels_of_step _ hstep, runSteps_of_step _ hstep, hlevels, hrun, hwave, sentWave_drop_unitsBefore h hbusy,
      frameSent_of_position l w hcount hen]
    exact ⟨by simp [hunits], w, hw, rfl⟩

/-- The state after the tick that is about to be taken. -/
theorem State.aboutToSend.step_eq {s : State} (h : s.aboutToSend) : step s = .next (tickTaken (s.setAgenda [])) := by
  rw [step_tick h.agenda]
  exact takeTick_accepted h.idle h.fits

theorem serializerStart_busy (en : Bool) (count : Byte) : (serializerStart en count).state ≠ .idle := by
  unfold serializerStart
  dsimp only
  split <;> simp

/-- The whole transmission of a tick left alone: the line takes the whole waveform, and the frame ends with the serializer
idle. -/
theorem State.aboutToSend.transmission {s : State} (h : s.aboutToSend) :
    levels s.frameUnits (tickTaken (s.setAgenda [])) = (tickTaken (s.setAgenda [])).sentWave ∧
    ∃ z, z.state = .idle ∧
      runSteps s.frameUnits (tickTaken (s.setAgenda [])) = .next (frameSent (tickTaken (s.setAgenda [])) z) := by
  obtain ⟨-, -, hlatch⟩ := h.inv.params
  obtain ⟨k, hk⟩ : ∃ k, s.frameUnits = k + 1 := ⟨s.frameUnits - 1, by unfold State.frameUnits; omega⟩
  have hstart : (tickTaken (s.setAgenda [])).ser.unitsBefore = 0 := unitsBefore_start _ _
  have hsent := transmission_from_position k (stepKeepsTheInvariant s _ h.inv h.step_eq) rfl (serializerStart_busy _ _)
    (by rw [hstart, Nat.zero_add, ← hk]; rfl)
  rwa [hstart, ← hk, List.drop_zero] at hsent

/-- The run of a tick left alone, the tick among its steps. -/
theorem State.aboutToSend.run {s : State} (h : s.aboutToSend) :
    ∃ z, z.state = .idle ∧ runSteps (1 + s.frameUnits) s = .next (frameSent (tickTaken (s.setAgenda [])) z) := by
  obtain ⟨-, z, hz, hrun⟩ := h.transmission
  exact ⟨z, hz, by rw [Nat.add_comm, runSteps_of_step _ h.step_eq, hrun]⟩

/-- Settles O44: the waveform of the frame in transmission after the tick is that of the frame buffer's pixels. -/
theorem transmissionDrivesTheFrameWave : Obligations.TransmissionDrivesTheFrameWave := by
  intro s h
  obtain ⟨hlevels, z, hz, hrun⟩ := h.transmission
  exact ⟨_, _, h.step_eq, hlevels, hrun, hz, rfl⟩

/-- The state the one atomic step of the tick gives (42_serializer.md R130). -/
def frameAppended (s : State) : State :=
  (s.setLine (s.line ++ [frameSymbols (sentPixels s.fb (capturedEnable s) s.cfg.pixelCount.toNat)])).setDraws
    (s.draws + captureDraws s)

/-- With the serializer idle and the count within the capacity the one atomic step of the tick is accepted. -/
theorem tickWhole_accepted {s : State} (hidle : s.ser.state = .idle)
    (hfits : s.cfg.pixelCount.toNat ≤ s.params.capacity) : tickWhole s = .next (frameAppended s) := by
  unfold tickWhole
  rw [busy_eq_false.2 hidle, overCapacity_eq_false.2 hfits]
  rfl

/-- The end of the frame that a tick starts is what the atomic step gives, but for the serializer and the line. -/
theorem frameSent_tickTaken (s : State) (z : Serializer) :
    frameSent (tickTaken s) z = ((frameAppended s).setSer z).setDout false := rfl

theorem setSer_setDout_self (s : State) (z : Serializer) : (s.setSer z).setDout s.dout = s.setSer z := rfl

/-- A tick left alone ends in the state of the one atomic step, but for the serializer: the line is low before the tick and
at the end. -/
theorem State.aboutToSend.run_atomic {s : State} (h : s.aboutToSend) :
    ∃ z, z.state = .idle ∧ runSteps (1 + s.frameUnits) s = .next ((frameAppended (s.setAgenda [])).setSer z) := by
  obtain ⟨z, hz, hrun⟩ := h.run
  have hlow : (frameAppended (s.setAgenda [])).dout = false := h.inv.dout_idle h.idle
  rw [frameSent_tickTaken, ← hlow, setSer_setDout_self] at hrun
  exact ⟨z, hz, hrun⟩

/-- Settles O45: both end in the state with the frame appended. -/
theorem perUnitMachineRefinesTheAtomicTick : Obligations.PerUnitMachineRefinesTheAtomicTick := by
  intro s h
  obtain ⟨z, hz, hrun⟩ := h.run_atomic
  exact ⟨_, _, hrun, tickWhole_accepted (s := s.setAgenda []) h.idle h.fits, rfl, hz, h.inv.dout_idle h.idle⟩

/-- Settles O46: the captured enable is 0, so the frame appended is a black one. -/
theorem disabledTickSendsZeroBits : Obligations.DisabledTickSendsZeroBits := by
  intro s h henabled
  obtain ⟨z, -, hrun⟩ := h.run_atomic
  have hoff : capturedEnable (s.setAgenda []) = false := capturedEnable_off henabled
  refine ⟨_, hrun, ?_⟩
  simp [frameAppended, hoff, sentPixels_disabled, frameSymbols_black]

end Sys2Proof.Machine

/-! PROOF. The statements of 60_exceptions.md: a tick and a byte at the same instant, and where a step stops. -/

namespace Sys2Proof.Machine

/-! ## A tick and a byte in either order -/

theorem takeTick_busy {s : State} (h : s.busy = true) : takeTick s = .fault .tickOverrun := if_pos h

/-- Settles O50: the tick faults in both orders for the same cause, or is accepted and the byte enters the same window. -/
theorem tickAndByteCommute : Obligations.TickAndByteCommute := by
  intro s b rest hready
  have htick : runSteps 2 (s.setAgenda (.tick :: .byte b :: rest)) =
      andThen (takeTick (s.setAgenda (.byte b :: rest))) (runSteps 1) := by
    rw [runSteps, step_tick (State.setAgenda_agenda s _)]
    rfl
  have hbyte : runSteps 2 (s.setAgenda (.byte b :: .tick :: rest)) =
      andThen (takeTick (rxShift b (s.setAgenda rest))) (runSteps 0) := by
    rw [runSteps_of_step 1 (step_byte (State.setAgenda_agenda s _) hready), runSteps, step_tick (by rfl)]
    rfl
  rw [htick, hbyte]
  cases hb : s.busy with
  | true => rw [takeTick_busy (by exact hb), takeTick_busy (by exact hb), andThen_fault, andThen_fault]
  | false =>
    cases ho : s.overCapacity with
    | true =>
      rw [takeTick_overCapacity (by exact hb) (by exact ho), takeTick_overCapacity (by exact hb) (by exact ho),
        andThen_fault, andThen_fault]
    | false =>
      have hidle := busy_eq_false.1 hb
      have hfits := overCapacity_eq_false.1 ho
      have hshift : step (tickTaken (s.setAgenda (.byte b :: rest))) =
          .next (rxShift b ((tickTaken (s.setAgenda (.byte b :: rest))).setAgenda rest)) := step_byte rfl hready
      rw [takeTick_accepted (by exact hidle) (by exact hfits), takeTick_accepted (by exact hidle) (by exact hfits),
        andThen_next, andThen_next, runSteps_of_step 0 hshift]
      rfl

/-! ## Where the thread's step completes -/

/-- A legal position of the serializer gives the line a level (42_serializer.md R138, R139). -/
theorem lineLevel_of_legal {s : State} (hlegal : s.serializerLegal) : ∃ l, lineLevel s = some l := by
  cases hst : s.ser.state with
  | idle => exact ⟨false, lineLevel_idle hst⟩
  | latch => exact ⟨false, lineLevel_latch hst⟩
  | shift =>
    obtain ⟨hpix, hcount, -⟩ := (serializerLegal_shift hst).1 hlegal
    unfold lineLevel
    rw [hst, currentByte_within (hpix.trans_le hcount)]
    exact ⟨_, rfl⟩

/-- A unit of the serializer goes to a legal position, so it completes. -/
theorem unitStep_completes {s : State} (h : s.Inv) : ∃ t, unitStep s = .next t := by
  cases hst : s.ser.state with
  | idle =>
    unfold unitStep
    rw [hst]
    exact ⟨s, rfl⟩
  | shift =>
    obtain ⟨l, hl⟩ := lineLevel_of_legal (advanceShift_legal h.params h.serializer hst)
    exact ⟨_, unitStep_shift hst hl⟩
  | latch =>
    rcases Nat.lt_or_ge (s.ser.latch + 1) s.params.tLatchUnits with hlt | hge
    · exact ⟨_, unitStep_latch hst hlt⟩
    · exact ⟨_, unitStep_latch_last hst hge⟩

/-- A `GenStep` with the count within the capacity writes a byte that exists or ends the cycle. -/
theorem genStep_completes {s : State} {q : List ByteWrite} (h : s.Inv) (hm : s.ms = .gen q)
    (hfits : s.cfg.pixelCount.toNat ≤ s.params.capacity) : ∃ t, genStep q s = .next t := by
  have ho := overCapacity_eq_false.2 hfits
  cases q with
  | nil => exact ⟨_, genStep_nil ho⟩
  | cons w rest => exact ⟨_, genStep_cons rest ho (h.head_within hm hfits)⟩

/-- A step of the thread completes, unless it is a step of a cycle with the count over the capacity. -/
theorem threadStep_completes {s : State} (h : s.Inv)
    (hcycle : s.ser.state = .idle → s.ms ≠ .drain → s.cfg.pixelCount.toNat ≤ s.params.capacity) :
    ∃ t, threadStep s = .next t := by
  cases hb : s.busy with
  | true =>
    rw [threadStep_busy hb]
    exact unitStep_completes h
  | false =>
    cases hm : s.ms with
    | drain =>
      rw [threadStep_drain hb hm]
      exact drain_completes s
    | gen q =>
      rw [threadStep_gen hb hm]
      exact genStep_completes h hm (hcycle (busy_eq_false.1 hb) (by simp [hm]))

/-! ## Where a step stops -/

theorem tickNext_iff {s : State} : s.tickNext = true ↔ ∃ rest, s.agenda = .tick :: rest := by
  unfold State.tickNext
  rw [decide_eq_true_iff, List.head?_eq_some_iff]

/-- The next move is a tick while the serializer is busy (93_implementation_defined.md U8). -/
abbrev State.overruns (s : State) : Prop := s.tickNext = true ∧ s.ser.state ≠ .idle

/-- The next move is a tick with the serializer idle, or a step of a cycle, and the count is over the capacity
(93_implementation_defined.md U6). -/
abbrev State.exceedsCapacity (s : State) : Prop :=
  s.params.capacity < s.cfg.pixelCount.toNat ∧ s.ser.state = .idle ∧
    (s.tickNext = true ∨ (s.threadNext = true ∧ s.ms ≠ .drain))

theorem step_of_overruns {s : State} (h : s.overruns) : step s = .fault .tickOverrun := by
  obtain ⟨htick, hbusy⟩ := h
  obtain ⟨rest, ha⟩ := tickNext_iff.1 htick
  exact tickWhileBusyIsOverrun s rest ha hbusy

theorem step_of_exceedsCapacity {s : State} (h : s.exceedsCapacity) : step s = .fault .pixelCountOverCapacity := by
  obtain ⟨hover, hidle, hmove⟩ := h
  obtain ⟨hcycle, htick⟩ := countOverCapacityFaults s hidle hover
  rcases hmove with hnext | ⟨hn, hm⟩
  · obtain ⟨rest, ha⟩ := tickNext_iff.1 hnext
    exact htick rest ha
  · cases hq : s.ms with
    | drain => exact absurd hq hm
    | gen q => exact hcycle q hn hq

/-- Inside the contract every move completes (70_reset_and_hazards.md R188). -/
theorem step_completes {s : State} (h : s.Inv) (hbusy : ¬ s.overruns) (hover : ¬ s.exceedsCapacity) :
    ∃ t, step s = .next t := by
  rcases move_cases s with hn | ⟨b, rest, ha, hr⟩ | ⟨rest, ha⟩ | ⟨rest, ha⟩
  · rw [step_thread hn]
    refine threadStep_completes (threadSees_inv h) fun hidle hm => ?_
    simp only [threadSees_ser, threadSees_ms, threadSees_cfg, threadSees_params] at hidle hm ⊢
    exact Nat.le_of_not_lt fun hlt => hover ⟨hlt, hidle, .inr ⟨hn, hm⟩⟩
  · exact ⟨_, step_byte ha hr⟩
  · have hnext := tickNext_iff.2 ⟨rest, ha⟩
    have hidle : s.ser.state = .idle := by_contra fun hne => hbusy ⟨hnext, hne⟩
    have hfits : s.cfg.pixelCount.toNat ≤ s.params.capacity :=
      Nat.le_of_not_lt fun hlt => hover ⟨hlt, hidle, .inl hnext⟩
    exact ⟨_, (step_tick ha).trans (takeTick_accepted hidle hfits)⟩
  · exact ⟨_, step_rst ha⟩

/-- Settles O54: the two causes of a fault exclude each other, and outside both the step completes. -/
theorem stepsStopExactlyOutsideTheContract : Obligations.StepsStopExactlyOutsideTheContract := by
  intro s h
  by_cases hbusy : s.overruns
  · rw [step_of_overruns hbusy]
    exact ⟨iff_of_true rfl hbusy, iff_of_false (by simp) fun ⟨_, hidle, _⟩ => hbusy.2 hidle, by simp,
      .inr (.inl rfl)⟩
  · by_cases hover : s.exceedsCapacity
    · rw [step_of_exceedsCapacity hover]
      exact ⟨iff_of_false (by simp) hbusy, iff_of_true rfl hover, by simp, .inr (.inr rfl)⟩
    · obtain ⟨t, ht⟩ := step_completes h hbusy hover
      rw [ht]
      exact ⟨iff_of_false (by simp) hbusy, iff_of_false (by simp) hover, by simp, .inl ⟨t, rfl⟩⟩

end Sys2Proof.Machine

/-! PROOF. The statements of 70_reset_and_hazards.md: the two zero bytes that flush the window, the `rst` port, and the
quiescent state. -/

namespace Sys2Proof

/-- A window whose newest byte has just come in, and is not the sync byte, is not recognised. -/
theorem not_recognised_shiftIn (w : Window) {x : Byte} (hx : x ≠ 0xFF#8) : recognised (w.shiftIn x) = false := by
  rw [shiftIn_eq_ofBytes]
  exact recognised_not_sync _ _ hx

/-- Two bytes after a zero byte the zero is the oldest byte, so the window is not recognised. -/
theorem not_recognised_two_after_zero (w : Window) (a b : Byte) :
    recognised (((w.shiftIn 0#8).shiftIn a).shiftIn b) = false := by
  rw [shiftIn_three]
  exact recognised_zero_oldest a b

/-- Settles O11: the zero bytes are no sync byte, each of the two windows after them still starts with one of them, and the
last window is the command, whatever stood before. -/
theorem twoZeroBytesFlushTheWindow : Obligations.TwoZeroBytesFlushTheWindow := by
  intro w op par hop z1 z2 w1 w2 w3
  have hzero : (0#8 : Byte) ≠ 0xFF#8 := by decide
  exact ⟨not_recognised_shiftIn w hzero, not_recognised_shiftIn z1 hzero, not_recognised_two_after_zero w 0#8 op,
    not_recognised_two_after_zero z1 op par, recognised_shiftIn_three z2 par hop⟩

end Sys2Proof

namespace Sys2Proof.Machine

/-- Settles O55: the move is the restart RESET performs, from the state with the `rst` used up; the restart looks at no
register, so a transmission does not hold it off. -/
theorem rstPortRestartsAtAnyTime : Obligations.RstPortRestartsAtAnyTime := by
  intro s rest ha
  exact ⟨restart (s.setAgenda rest), step_rst ha, rfl, rfl, rfl, fun _ => rfl, rfl, rfl, rfl, rfl, rfl, rfl,
    fun par => exec_reset par (s.setAgenda rest)⟩

/-- The four conditions of a quiescent cut (70_reset_and_hazards.md R187). -/
theorem quiescent_iff {s : State} : s.quiescent = true ↔
    s.agenda.any Event.isByte = false ∧ recognised s.rxwin = false ∧ s.ms = .drain ∧ s.ser.state = .idle := by
  unfold State.quiescent
  simp only [Bool.and_eq_true, Bool.not_eq_true', decide_eq_true_eq, busy_eq_false, and_assoc]

/-- Away from `DRAIN` a cycle is half done, so the state is not quiescent. -/
theorem not_quiescent_of_ms {s : State} (h : s.ms ≠ .drain) : s.quiescent = false := by
  by_contra hq
  obtain ⟨-, -, hdrain, -⟩ := quiescent_iff.1 (Bool.eq_true_of_not_eq_false hq)
  exact h hdrain

/-- Settles O60: the thread's `Drain` finds no command and starts a generation cycle, which is half done in the next state. -/
theorem quiescentStateMovesOn : Obligations.QuiescentStateMovesOn := by
  intro s hq ha
  obtain ⟨-, hr, hm, hidle⟩ := quiescent_iff.1 hq
  exact ⟨_, drainWithoutCommandStartsACycle s (threadNext_nil ha) hidle hm hr, not_quiescent_of_ms (by simp)⟩

end Sys2Proof.Machine

/-! PROOF. The statements left over: the round trip from a command to its word and back, the name of each reject, the frame
of the register commands, and the pixels of a cycle whose registers are outside their domains. -/

namespace Sys2Proof

/-! ## From a command to its word and back -/

/-- A command at the front of a list of bytes is taken off it (30_encoding.md R60). -/
theorem decodeBytes_encodeBytes (i : Instr) (rest : List Byte) :
    decodeBytes (encodeBytes i ++ rest) = .ok (i, rest) := by
  change (decodeWindow (encode i)).map (fun j => (j, rest)) = .ok (i, rest)
  rw [decodeWindow_encode]
  rfl

/-- The three bytes of a command, shifted in, are the window (30_encoding.md R61). -/
theorem foldl_shiftIn_encodeBytes (i : Instr) (w : Window) : (encodeBytes i).foldl Window.shiftIn w = encode i :=
  shiftIn_three w i.opcode i.parameter Config.sync

/-- A word of the table has the window's own numbering (log 23). -/
theorem decodeTableWord_of_decodeWindow {w : Window} {i : Instr} (h : decodeWindow w = .ok i) :
    decodeTableWord 24 w.toNat = some i := by
  have hw : BitVec.ofNat 24 (w.toNat % 2 ^ 24) = w := by
    rw [Nat.mod_eq_of_lt w.isLt, BitVec.ofNat_toNat, BitVec.setWidth_eq]
  unfold decodeTableWord
  rw [hw, h]

/-- Settles O2: in each of its four forms the command is read from the one window `encode i`. -/
theorem everyCommandDecodesAsItself : Obligations.EveryCommandDecodesAsItself := by
  intro i
  have hwindow := decodeWindow_encode i
  refine ⟨hwindow, decodeBytes_encodeBytes i, fun w => ?_, decodeTableWord_of_decodeWindow hwindow⟩
  rw [foldl_shiftIn_encodeBytes, hwindow]

/-! ## The cause of each reject -/

/-- The recognition predicate as facts of two bytes (30_encoding.md R62). -/
theorem recognised_iff (w : Window) : recognised w = true ↔ w.oldest ≠ 0#8 ∧ w.newest = 0xFF#8 := by
  obtain ⟨a, b, c, rfl⟩ := window_cases w
  rw [recognised_ofBytes, oldest_ofBytes, newest_ofBytes, Bool.and_eq_true_iff, bne_iff_ne, beq_iff_eq]
  rfl

/-- Without the sync byte the window is not a command yet (30_encoding.md R66 b). -/
theorem decodeWindow_notSync {w : Window} (h : w.newest ≠ 0xFF#8) : decodeWindow w = .error .notSync := by
  have hr : ¬ recognised w = true := fun hr => h ((recognised_iff w).1 hr).2
  unfold decodeWindow
  rw [if_neg hr]
  exact if_neg h

/-- The sync byte behind the opcode 0 is not recognised (30_encoding.md R66 a). -/
theorem decodeWindow_opcodeZero {w : Window} (h : w.newest = 0xFF#8) (h0 : w.oldest = 0#8) :
    decodeWindow w = .error .opcodeZero := by
  have hr : ¬ recognised w = true := fun hr => ((recognised_iff w).1 hr).1 h0
  unfold decodeWindow
  rw [if_neg hr]
  exact if_pos h

/-- Everything the decoder can answer, with the bytes that make it answer so: three causes of a reject, and a command with
an opcode of the table (30_encoding.md R65, R66). -/
theorem decodeWindow_cases (w : Window) :
    (w.newest ≠ 0xFF#8 ∧ decodeWindow w = .error .notSync) ∨
    (w.newest = 0xFF#8 ∧ w.oldest = 0#8 ∧ decodeWindow w = .error .opcodeZero) ∨
    (w.newest = 0xFF#8 ∧ 0x0C ≤ w.oldest.toNat ∧ decodeWindow w = .error (.reservedOpcode w.oldest w.middle)) ∨
    (w.newest = 0xFF#8 ∧ w.oldest ≠ 0#8 ∧ w.oldest.toNat < 0x0C ∧ ∃ i, decodeWindow w = .ok i) := by
  by_cases hsync : w.newest = 0xFF#8
  · by_cases hzero : w.oldest = 0#8
    · exact .inr (.inl ⟨hsync, hzero, decodeWindow_opcodeZero hsync hzero⟩)
    · rcases decodeWindow_recognised ((recognised_iff w).2 ⟨hzero, hsync⟩) with ⟨i, hi, hop, -⟩ | ⟨hd, hop⟩
      · have hlt : i.opcode.toNat < 0x0C := by cases i <;> simp [Instr.opcode]
        exact .inr (.inr (.inr ⟨hsync, hzero, hop ▸ hlt, i, hi⟩))
      · exact .inr (.inr (.inl ⟨hsync, hop, hd⟩))
  · exact .inl ⟨hsync, decodeWindow_notSync hsync⟩

/-- Settles O4: the answer of each case is the reject of its cause alone, and the bytes of one case are not those of another. -/
theorem rejectsAreNamedByTheirCause : Obligations.RejectsAreNamedByTheirCause := by
  intro w
  change (_ ↔ w.newest ≠ 0xFF#8) ∧ (_ ↔ w.newest = 0xFF#8 ∧ w.oldest = 0#8) ∧
    (∀ op par, _ ↔ w.newest = 0xFF#8 ∧ w.oldest = op ∧ w.middle = par ∧ 0x0C ≤ op.toNat) ∧ _
  have hlow (h : w.oldest.toNat < 0x0C) (op par : Byte) : ¬ (w.oldest = op ∧ w.middle = par ∧ 0x0C ≤ op.toNat) := by
    rintro ⟨rfl, -, hle⟩
    omega
  rcases decodeWindow_cases w with ⟨hsync, hd⟩ | ⟨hsync, hzero, hd⟩ | ⟨hsync, hop, hd⟩ | ⟨hsync, hzero, hop, i, hd⟩
  · simp [hd, hsync]
  · rw [hzero] at hlow
    simp [hd, hsync, hzero, hlow (by decide)]
  · have hzero : w.oldest ≠ 0#8 := fun h0 => absurd (h0 ▸ hop) (by decide)
    refine ⟨by simp [hd, hsync], by simp [hd, hzero], fun op par => ?_, by simp [hd]⟩
    rw [hd]
    constructor
    · rintro ⟨⟩
      exact ⟨hsync, rfl, rfl, hop⟩
    · rintro ⟨-, rfl, rfl, -⟩
      rfl
  · simp [hd, hsync, hzero, hlow hop]

end Sys2Proof

namespace Sys2Proof.Machine

/-! ## The frame of the register commands -/

/-- The write port of a command's register; RESET has none (40_commands.md R81 to R91). -/
def writtenPort : Instr → Option CfgPort
  | .enable _ => some .enabled
  | .bright _ => some .brightness
  | .mode _ => some .mode
  | .color _ => some .color
  | .dir _ => some .direction
  | .count _ => some .count
  | .spdh _ => some .speedHigh
  | .spdl _ => some .speedLow
  | .reset _ => none
  | .regh _ => some .progressHigh
  | .regl _ => some .progressLow

/-- A command with a write port writes its parameter there, does not restart, and leaves the phase unless it is MODE. -/
theorem exec_of_writtenPort {i : Instr} {r : CfgPort} {s t : State} (hr : writtenPort i = some r)
    (h : exec i s = .next t) :
    restartsSequencer i = false ∧ t.cfg = s.cfg.write r i.parameter ∧ (r ≠ .mode → t.time = s.time) := by
  cases i with
  | reset par => cases hr
  | mode par =>
    cases hr
    cases h
    exact ⟨rfl, rfl, fun hne => absurd rfl hne⟩
  | _ =>
    cases hr
    cases h
    exact ⟨rfl, rfl, fun _ => rfl⟩

/-- Settles O20: the port written and the other ports by the law of a register write, every other field by the frame of a
command that does not restart. -/
theorem registerCommandsFrame : Obligations.RegisterCommandsFrame := by
  intro i s t r h hi
  have hr : writtenPort i = some r := by
    rcases hi with ⟨_, rfl, rfl⟩ | ⟨_, rfl, rfl⟩ | ⟨_, rfl, rfl⟩ | ⟨_, rfl, rfl⟩ | ⟨_, rfl, rfl⟩ | ⟨_, rfl, rfl⟩ |
      ⟨_, rfl, rfl⟩ | ⟨_, rfl, rfl⟩ | ⟨_, rfl, rfl⟩ | ⟨_, rfl, rfl⟩ <;> rfl
  obtain ⟨hrestart, hcfg, htime⟩ := exec_of_writtenPort hr h
  obtain ⟨hparams, hrxwin, hfb, hms, hser, hdout, hline, hecho, hagenda, -⟩ := exec_frame hrestart h
  have hread : ∀ r', t.cfg.read r' = if r' = r then i.parameter else s.cfg.read r' := fun r' => by
    rw [hcfg, Cfg.read_write]
  exact ⟨(hread r).trans (if_pos rfl), fun r' hne => (hread r').trans (if_neg hne), htime, hrxwin, fun a => by rw [hfb],
    hms, hser, hdout, hline, hecho, hparams, hagenda⟩

/-! ## The pixels of a cycle do not depend on the colour -/

/-- The modes 0 to 4 are the modes there are (10_state.md R13). -/
theorem modeOf_legal {v : Byte} (h : v.toNat ≤ 4) : ∃ m, modeOf v = some m := by
  unfold modeOf
  generalize v.toNat = n at h
  interval_cases n <;> exact ⟨_, rfl⟩

/-- In a legal mode the pixels of the frame are those the mode paints, whether their colour is defined or free (log 9). -/
theorem frame_pixels {c : Cfg} {m : Mode} (t : Word16) (k : Nat) (hm : modeOf c.mode = some m) :
    (frame c t k).map Prod.fst = paintedPixels m c.pixelCount.toNat c.divisor.toNat := by
  unfold frame
  simp only [hm]
  split <;> simp [Function.comp_def]

/-- Settles O29: the addresses are those of the pixels the mode paints, and the mode, the count and the divisor are the same
on both sides. -/
theorem outOfDomainColoursPaintTheSamePixels : Obligations.OutOfDomainColoursPaintTheSamePixels := by
  intro c t k hmode
  obtain ⟨m, hm⟩ := modeOf_legal hmode
  rw [writes_addr, writes_addr, frame_pixels t k hm, frame_pixels t k (by exact hm)]
  rfl

end Sys2Proof.Machine
